-- ==== Sys2Proof/Word.lean ====
section
/-! DEFINITION. The word types of the block (00_scope.md R10, R12; 30_encoding.md R90 to R92).
Bit 0 is the least significant bit. -/

namespace Sys2Proof

/-- A byte, 0..255 (R12): the RX word, an element of `W`, `BUF` or `SLOT`, the opcode, `TMO`. -/
abbrev Byte := BitVec 8

/-- A 16-bit lane of a HOST word (R91, R92), and a 16-bit register of the target file or the zone
(R10 `COORD_W`). A signed quantity is held as its two's-complement pattern. -/
abbrev Lane := BitVec 16

/-- Unsigned seconds: the input `now` and the register `LAST` (R10 `TIME_W`). -/
abbrev Time := BitVec 32

/-- A HOST command word or response word (R10 `CMD_W`, `RSP_W`). -/
abbrev Word72 := BitVec 72

end Sys2Proof
end

