-- ==== Sys2Proof/Syntax.lean ====
section
/-! DEFINITION. The operations of the block, one constructor per row of the operation map
(30_encoding.md R100), with the operands the row's column "lanes in" names, lane `a` first. -/

namespace Sys2Proof

/-- An operation of the RX port (`rxb`) or of the HOST port (all others). `RESET` is no operation of
either port (R100) and stands among the inputs of Machine/State.lean. -/
inductive Instr where
  /-- `RXB b`: receive one byte (R130). -/
  | rxb (b : Byte)
  /-- `00 NOP` (R220). -/
  | nop
  /-- `01 QPRES d`: query presence with the override timeout `d` (R182). -/
  | qpres (d : Lane)
  /-- `02 RDSTAT` (R221). -/
  | rdstat
  /-- `03 RDWIN` (R224). -/
  | rdwin
  /-- `04 RDBUF d`: read the valid buffer byte of index `d` (R225). -/
  | rdbuf (d : Lane)
  /-- `05 RDTGT d`: read target slot `d` (R222). -/
  | rdtgt (d : Lane)
  /-- `06 RDLAST` (R223). -/
  | rdlast
  /-- `07 RDCFG` (R226). -/
  | rdcfg
  /-- `08 RDTMO` (R227). -/
  | rdtmo
  /-- `09 SETT d`: set the timeout to `d` seconds (R201). -/
  | sett (d : Lane)
  /-- `0A SETD c d`: set the distance pair y1 = `c`, y2 = `d` (R202). -/
  | setd (c d : Lane)
  /-- `0B SETZ a b c d`: set the zone x1, x2, y1, y2 (R203). -/
  | setz (a b c d : Lane)
  /-- `0C ZDEF`: reset the zone to default (R204). -/
  | zdef
  /-- `0D CFGLD`: load the working configuration from the slot (R194). -/
  | cfgld
  /-- `0E CFGSV`: save the working configuration to the slot (R206). -/
  | cfgsv
  /-- `0F SLOTW c d`: write the byte `d[7:0]` to slot index `c` (R196). -/
  | slotw (c : Lane) (d : Byte)
  /-- `10 SLOTR c`: read slot index `c` (R197). -/
  | slotr (c : Lane)
  deriving DecidableEq, Repr

/-- A word as it arrives: the port decides the format, never the bits (R93). -/
inductive PortWord where
  /-- One word of format RX (R90). -/
  | rx (b : Byte)
  /-- One word of format H (R91). -/
  | host (w : Word72)
  deriving DecidableEq, Repr

end Sys2Proof
end

