-- ==== Sys2Proof/Decode.lean ====
section
/-! DEFINITION. Decoding and encoding of the RX and HOST words (30_encoding.md R90 to R93, R100,
R118, R119). The decoder is total: it answers an operation, or rejects by name. -/

namespace Sys2Proof

/-- Why a word is no operation. -/
inductive Reject where
  /-- A HOST word whose `op` is `11`..`FF` (R118). The machine does not stop on it: it answers
  `ILL` (Machine/Ops.lean `refuseIll`), so the rejection is safe. -/
  | reservedOpcode (op : Byte)
  deriving DecidableEq, Repr

/-- Bits 71:64 of a HOST word: `op` of a command, `st` of a response (R91, R92). -/
def topByte (w : Word72) : Byte := w.extractLsb' 64 8
/-- Bits 63:48 of a HOST word (R91, R92). -/
def laneA (w : Word72) : Lane := w.extractLsb' 48 16
/-- Bits 47:32 of a HOST word (R91, R92). -/
def laneB (w : Word72) : Lane := w.extractLsb' 32 16
/-- Bits 31:16 of a HOST word (R91, R92). -/
def laneC (w : Word72) : Lane := w.extractLsb' 16 16
/-- Bits 15:0 of a HOST word (R91, R92). -/
def laneD (w : Word72) : Lane := w.extractLsb' 0 16
/-- The low byte of a lane: the data byte of `SLOTW` is `d[7:0]` (R102). -/
def laneLow (v : Lane) : Byte := v.extractLsb' 0 8

/-- The HOST word `op a b c d` (R91); also the response word `st a b c d` (R92). -/
def hostWord (top : Byte) (a b c d : Lane) : Word72 := top ++ a ++ b ++ c ++ d

/-- The operation of a HOST command word. `op` alone selects it and the lanes it does not name are
ignored (R100, R119); `11`..`FF` are reserved (R118). -/
def decodeHost (w : Word72) : Except Reject Instr :=
  match (topByte w).toNat with
  | 0x00 => .ok .nop
  | 0x01 => .ok (.qpres (laneD w))
  | 0x02 => .ok .rdstat
  | 0x03 => .ok .rdwin
  | 0x04 => .ok (.rdbuf (laneD w))
  | 0x05 => .ok (.rdtgt (laneD w))
  | 0x06 => .ok .rdlast
  | 0x07 => .ok .rdcfg
  | 0x08 => .ok .rdtmo
  | 0x09 => .ok (.sett (laneD w))
  | 0x0A => .ok (.setd (laneC w) (laneD w))
  | 0x0B => .ok (.setz (laneA w) (laneB w) (laneC w) (laneD w))
  | 0x0C => .ok .zdef
  | 0x0D => .ok .cfgld
  | 0x0E => .ok .cfgsv
  | 0x0F => .ok (.slotw (laneC w) (laneLow (laneD w)))
  | 0x10 => .ok (.slotr (laneC w))
  | _ => .error (.reservedOpcode (topByte w))

/-- The operation of a word on its port. Every RX word is `RXB` (R90, R122). -/
def decode : PortWord → Except Reject Instr
  | .rx b => .ok (.rxb b)
  | .host w => decodeHost w

/-- The word of an operation (R91, R100). R119 lets the lanes an operation does not name, and
`SLOTW.d[15:8]`, hold anything; this encoder writes zeros there. DESIGN CHOICE (log 11), safe: no
rule reads those bits. -/
def encode : Instr → PortWord
  | .rxb b => .rx b
  | .nop => .host (hostWord 0x00 0 0 0 0)
  | .qpres d => .host (hostWord 0x01 0 0 0 d)
  | .rdstat => .host (hostWord 0x02 0 0 0 0)
  | .rdwin => .host (hostWord 0x03 0 0 0 0)
  | .rdbuf d => .host (hostWord 0x04 0 0 0 d)
  | .rdtgt d => .host (hostWord 0x05 0 0 0 d)
  | .rdlast => .host (hostWord 0x06 0 0 0 0)
  | .rdcfg => .host (hostWord 0x07 0 0 0 0)
  | .rdtmo => .host (hostWord 0x08 0 0 0 0)
  | .sett d => .host (hostWord 0x09 0 0 0 d)
  | .setd c d => .host (hostWord 0x0A 0 0 c d)
  | .setz a b c d => .host (hostWord 0x0B a b c d)
  | .zdef => .host (hostWord 0x0C 0 0 0 0)
  | .cfgld => .host (hostWord 0x0D 0 0 0 0)
  | .cfgsv => .host (hostWord 0x0E 0 0 0 0)
  | .slotw c d => .host (hostWord 0x0F 0 0 c (d.setWidth 16))
  | .slotr c => .host (hostWord 0x10 0 0 c 0)

/-- The word that a row of spec/opcode_table.json describes: rows of at most 8 bits are RX words,
all others HOST words, and bits above `nbits` are 0. -/
def tableWord (nbits w : Nat) : PortWord :=
  if nbits ≤ 8 then .rx (BitVec.ofNat 8 (w % 2 ^ nbits)) else .host (BitVec.ofNat 72 (w % 2 ^ nbits))

/-- What the decoder reads from the word `w` of a table row of `nbits` bits; `none` where it
rejects. -/
def decodeTableWord (nbits w : Nat) : Option Instr :=
  match decode (tableWord nbits w) with
  | .ok i => some i
  | .error _ => none

end Sys2Proof
end

