-- ==== Sys2Proof/Config.lean ====
section
/-! DEFINITION. What the spec leaves to an implementation: the open parameter `DEFAULT_TIMEOUT`
(00_scope.md R10) and the order of two operations that arrive together (60_exceptions.md R245).
Both are opaque: nothing can be proved about which value they have. -/

namespace Sys2Proof

/-- `DEFAULT_TIMEOUT - 1`, a free value in 0..254 (log 2). -/
opaque Config.defaultTimeoutPred : Fin 255

/-- `DEFAULT_TIMEOUT`, the one parameter R10 leaves OPEN, with exactly the constraint R10 gives it:
`1 ≤ DEFAULT_TIMEOUT ≤ 255` (92_eei_decisions.md D16; log 2). -/
def Config.defaultTimeout : Byte := BitVec.ofNat 8 (Config.defaultTimeoutPred.val + 1)

/-- Whether, at the coincident arrival with this number, the `RXB` is processed before the HOST
command. A free value: R245 says the block processes the two as one of the two sequences and does
not say which (92_eei_decisions.md D30; log 6). -/
opaque Config.rxFirst : Nat → Bool

end Sys2Proof
end

