-- ==== Sys2Proof/Machine/Params.lean ====
section
/-! DEFINITION. The constants the source fixes (00_scope.md R9). UNVERIFIED (log 14): the spec notes
that the source's literals are unaudited. The sizes of the arrays (`WIN_LEN` 4, `BUF_CAP` 32,
`N_TGT` 3, `SLOT_LEN` 5) are the sizes of the fields of State. -/

namespace Sys2Proof.Machine

/-- `HEADER`, first transmitted byte first (R9, R64). -/
@[simp] def header0 : Byte := 0xAA
/-- `HEADER`, second byte (R9, R64). -/
@[simp] def header1 : Byte := 0xFF
/-- `HEADER`, third byte (R9, R64). -/
@[simp] def header2 : Byte := 0x03
/-- `HEADER`, fourth byte (R9, R64). -/
@[simp] def header3 : Byte := 0x00
/-- `FOOTER`, first transmitted byte first (R9, R64). -/
@[simp] def footer0 : Byte := 0x55
/-- `FOOTER`, second byte (R9, R64). -/
@[simp] def footer1 : Byte := 0xCC
/-- `FRAME_LEN`: the length of a complete frame (R9, R136). -/
@[simp] def frameLen : Nat := 30
/-- `BUF_CAP`: the capacity of the message buffer (R9, R23). -/
@[simp] def bufCap : Nat := 32
/-- `REC_BASE`: the buffer offset of target record 0 (R9). -/
@[simp] def recBase : Nat := 4
/-- `REC_LEN`: bytes per target record (R9). -/
@[simp] def recLen : Nat := 8
/-- `OFF_X` (R9, R95). -/
@[simp] def offX : Nat := 0
/-- `OFF_Y` (R9, R95). -/
@[simp] def offY : Nat := 2
/-- `OFF_SPD` (R9, R95). -/
@[simp] def offSpd : Nat := 4
/-- `SM_BIAS`: the constant of the sign correction (R9, R152). -/
@[simp] def smBias : Int := 32768
/-- `X_MIN`, mm (R9). -/
@[simp] def xMin : Int := -6000
/-- `X_MAX`, mm (R9). -/
@[simp] def xMax : Int := 6000
/-- `Y_MIN`, mm (R9). -/
@[simp] def yMin : Int := 0
/-- `Y_MAX`, mm (R9). -/
@[simp] def yMax : Int := 6000
/-- `CFG_SCALE`: mm per persisted step (R9). -/
@[simp] def cfgScale : Int := 100
/-- `CFG_BIAS`: bias of a persisted bound byte (R9). -/
@[simp] def cfgBias : Int := 128

end Sys2Proof.Machine
end

