-- ==== Sys2Proof/Machine/Operands.lean ====
section
/-! DEFINITION. The numbers the operations compute with: operand lanes, sign-magnitude fields, the
distance, the persisted bytes. All arithmetic is over the integers (00_scope.md R13); a result is
narrowed only where a rule stores it (`toLane`). -/

namespace Sys2Proof.Machine

/-- `s16(lane)`: a lane read as a signed number (00_scope.md R13, 30_encoding.md R103). -/
def s16 (v : Lane) : Int := v.toInt

/-- Store a signed number in a 16-bit register (00_scope.md R13: the storing rules show that it
fits, 41_target_decoder.md R160, 44_configuration.md R198). -/
def toLane (v : Int) : Lane := BitVec.ofInt 16 v

/-- `clamp(v, lo, hi)` (00_scope.md R13). -/
def clamp (v lo hi : Int) : Int := if v < lo then lo else if v > hi then hi else v

/-- `smdec(u)`: the sign-magnitude correction (41_target_decoder.md R152). -/
def smdec (u : Lane) : Int :=
  let raw := s16 u
  if raw < 0 then -raw - smBias else raw

/-- `smenc(v)`: the inverse of `smdec` on -32767..32767, used to build frames (30_encoding.md R97). -/
def smenc (v : Int) : Lane := if v ≥ 0 then toLane v else toLane (smBias + -v)

/-- Bitwise search for the integer square root: `k` more result bits below the partial root `r`. -/
def isqrtBits (n : Nat) : Nat → Nat → Nat
  | 0, r => r
  | k + 1, r =>
    if (r + 2 ^ k) * (r + 2 ^ k) ≤ n then isqrtBits n k (r + 2 ^ k) else isqrtBits n k r

/-- `isqrt(n)`: the largest `r` with `r² ≤ n` (00_scope.md R13). -/
def isqrt (n : Nat) : Nat := isqrtBits n (n.log2 / 2 + 1) 0

/-- `rdist(x, y)`: the distance rounded to the nearest integer (41_target_decoder.md R156). -/
def rdist (x y : Int) : Nat :=
  let n := (x * x + y * y).toNat
  let r := isqrt n
  if n - r * r > r then r + 1 else r

/-- `dec_mm(B)` (44_configuration.md R190). -/
def decMm (b : Byte) : Int := ((b.toNat : Int) - cfgBias) * cfgScale

/-- `enc_mm(v)`: truncating division, then saturation to one byte (44_configuration.md R191). -/
def encMm (v : Int) : Byte := BitVec.ofInt 8 (clamp (Int.tdiv v cfgScale + cfgBias) 0 255)

/-- `min(d, 255)`: a requested timeout saturated to its byte (44_configuration.md R201). -/
def encTimeout (d : Lane) : Byte := BitVec.ofNat 8 (min d.toNat 255)

/-- A working configuration before it is stored: the timeout and the four bounds. -/
structure Cfg where
  tmo : Byte
  x1 : Int
  x2 : Int
  y1 : Int
  y2 : Int
  deriving DecidableEq, Repr

/-- The validation of `cfgload`, its seven steps in their order (44_configuration.md R192). -/
def validate (t : Byte) (x1 x2 y1 y2 : Int) : Cfg :=
  let t := if t = 0 then Config.defaultTimeout else t
  let x1 := if x1 < xMin then xMin else x1
  let x2 := if x2 > xMax then xMax else x2
  let y1 := if y1 < yMin then yMin else y1
  let y2 := if y2 > yMax then yMax else y2
  let x2 := if x2 ≤ x1 then xMax else x2
  let y2 := if y2 ≤ y1 then yMax else y2
  ⟨t, x1, x2, y1, y2⟩

/-- What `cfgload` computes from the slot: decode, then validate (44_configuration.md R192). -/
def loadSlot (v : Vector Byte 5) : Cfg :=
  validate v[0] (decMm v[1]) (decMm v[2]) (decMm v[3]) (decMm v[4])

/-- The five bytes that persist a timeout byte and four bounds (44_configuration.md R195; the order
is 20_memory.md R62). -/
def saveBytes (t : Byte) (x1 x2 y1 y2 : Int) : Vector Byte 5 :=
  #v[t, encMm x1, encMm x2, encMm y1, encMm y2]

end Sys2Proof.Machine
end

