-- ==== Sys2Proof/Machine/State.lean ====
section
/-! DEFINITION. The architectural state of the block (10_state.md R20), the inputs and the output of
its ports, and the state after reset. Plain data. -/

namespace Sys2Proof.Machine

/-- `FSTATE`, the assembler's state label (10_state.md R24). No rule reads it to decide anything. -/
inductive FState where
  /-- 0 = `SEEKING_HEADER` (30_encoding.md R126). -/
  | seekingHeader
  /-- 1 = `ACCUMULATING` (30_encoding.md R126). -/
  | accumulating
  deriving DecidableEq, Repr

/-- One record of the target file `T` (10_state.md R26; widths R20). -/
structure Target where
  /-- `X`, signed mm, two's complement. -/
  x : Lane
  /-- `Y`, signed mm, two's complement. -/
  y : Lane
  /-- `SPD`, signed, sensor unit, two's complement. -/
  spd : Lane
  /-- `DIST`, unsigned mm. -/
  dist : Lane
  /-- `ZF`, the zone-membership flag (R29). -/
  zf : Bool
  deriving DecidableEq, Repr

/-- The bytes of `BUF` (20_memory.md R60), as the list of those that differ from what an unlisted
index reads as, indices strictly rising (Machine/Ops.lean `Memory.wf`; log 8). -/
structure Memory where
  cells : List Host.Cell
  deriving DecidableEq, Repr

/-- What the environment presents to the block (00_scope.md R5): an operation of a port with the
`now` it samples, both ports at once (60_exceptions.md R245), or the reset input with its strap. -/
inductive Input where
  /-- A byte on the RX port. -/
  | rx (b : Byte) (now : Time)
  /-- A command word on the HOST port. -/
  | host (w : Word72) (now : Time)
  /-- A byte and a command word at the same instant (R245). Both operations sample the one `now` of
  that instant: DESIGN CHOICE (log 6), R245 and R248 do not say when the second one samples. -/
  | both (b : Byte) (w : Word72) (now : Time)
  /-- The reset input, with the strap `serial_avail` (R260; log 10). -/
  | reset (avail : Bool)
  deriving DecidableEq, Repr

/-- The fields of a response word (30_encoding.md R92, R112): those not named are 0. -/
structure Rsp where
  /-- `st[7]` = `ILL`. -/
  ill : Bool := false
  /-- `st[1]`. -/
  st1 : Bool := false
  /-- `st[0]`. -/
  st0 : Bool := false
  a : Lane := 0
  b : Lane := 0
  c : Lane := 0
  d : Lane := 0
  deriving DecidableEq, Repr

/-- Why the machine stops with a fault. No constructor: no operation raises an exception in any
state (00_scope.md R7, 60_exceptions.md R240). -/
inductive Fault where
  deriving DecidableEq, Repr

/-- Why a step is refused. -/
inductive Refusal where
  /-- An operation that has no meaning in this model yet. Raised by no arm of exec: every operation
  of the table has its meaning. It would be safe. (The block's own refusal `ILL` is a response, a
  next state: R242.) -/
  | notModelled (mnemonic : String)
  deriving DecidableEq, Repr

/-- The complete state of the block (10_state.md R20), then the model's own fields: the inputs that
wait at its ports, the input `now`, the response and the arbiter's counter. -/
structure State where
  /-- `W[0..3]`, the Byte Window, `W[0]` oldest (R22). -/
  w : Vector Byte 4
  /-- `BUF[0..31]`, the message buffer (R23). -/
  buf : Memory
  /-- `LEN`, 0..32 (R23, R25). DEDUCED (log 7), safe: R20 gives the 6-bit register the range 0..32. -/
  len : Fin 33
  /-- `FSTATE` (R24). -/
  fstate : FState
  /-- `T[0..2]`, the target file (R26). -/
  tgt : Vector Target 3
  /-- `EN` (R30). -/
  en : Bool
  /-- `CNT`, 0..3 (R31). -/
  cnt : BitVec 2
  /-- `LAST`, the last-active timestamp, 0 = never (R32). -/
  last : Time
  /-- `TMO`, the working timeout, seconds (R33). -/
  tmo : Byte
  /-- `X1`, signed mm (R33). -/
  x1 : Lane
  /-- `X2`, signed mm (R33). -/
  x2 : Lane
  /-- `Y1`, signed mm (R33). -/
  y1 : Lane
  /-- `Y2`, signed mm (R33). -/
  y2 : Lane
  /-- `SLOT[0..4]`: timeout, x1, x2, y1, y2 (R35). -/
  slot : Vector Byte 5
  /-- The value of the time input that the latest operation sampled (00_scope.md R15; log 4). -/
  now : Time
  /-- The inputs the environment presents, in their order (00_scope.md R6, R8; log 3). -/
  inp : List Input
  /-- The response word of the latest operation, or none (30_encoding.md R112; log 5). -/
  rsp : Option Word72
  /-- The number of coincident arrivals so far, the index of the free value `Config.rxFirst`
  (log 6). -/
  arb : Nat
  deriving DecidableEq, Repr

/-- A target slot after reset: absent (70_reset_and_hazards.md R260). -/
def Target.reset : Target := ⟨0, 0, 0, 0, false⟩

/-- The state after `RESET avail=1` (70_reset_and_hazards.md R260, R261). `EN` is the strap, which
is an input: this state takes it as 1. DESIGN CHOICE (log 1), unsafe: with the strap at 0 the block
is disabled; the input `.reset false` gives that state. The last four fields are the model's own:
DESIGN CHOICE (logs 3, 4, 5, 6). -/
def State.reset : State where
  w := #v[0, 0, 0, 0]
  buf := ⟨[]⟩
  len := 0
  fstate := .seekingHeader
  tgt := #v[Target.reset, Target.reset, Target.reset]
  en := true
  cnt := 0
  last := 0
  tmo := Config.defaultTimeout
  x1 := BitVec.ofInt 16 xMin
  x2 := BitVec.ofInt 16 xMax
  y1 := BitVec.ofInt 16 yMin
  y2 := BitVec.ofInt 16 yMax
  slot := #v[0, 0, 0, 0, 0]
  now := 0
  inp := []
  rsp := none
  arb := 0

/-- Write the window. -/
def State.setW (s : State) (v : Vector Byte 4) : State := { s with w := v }
/-- Write the message buffer. -/
def State.setBuf (s : State) (v : Memory) : State := { s with buf := v }
/-- Write `LEN`. -/
def State.setLen (s : State) (v : Fin 33) : State := { s with len := v }
/-- Write `FSTATE`. -/
def State.setFstate (s : State) (v : FState) : State := { s with fstate := v }
/-- Write the target file. -/
def State.setTgt (s : State) (v : Vector Target 3) : State := { s with tgt := v }
/-- Write `CNT`. -/
def State.setCnt (s : State) (v : BitVec 2) : State := { s with cnt := v }
/-- Write `LAST`. -/
def State.setLast (s : State) (v : Time) : State := { s with last := v }
/-- Write the five working configuration registers, together (20_memory.md R69). -/
def State.setConfig (s : State) (t : Byte) (a b c d : Lane) : State :=
  { s with tmo := t, x1 := a, x2 := b, y1 := c, y2 := d }
/-- Write the slot. -/
def State.setSlot (s : State) (v : Vector Byte 5) : State := { s with slot := v }
/-- Write the response port. -/
def State.setRsp (s : State) (v : Option Word72) : State := { s with rsp := v }
/-- Sample the time input. -/
def State.setNow (s : State) (v : Time) : State := { s with now := v }
/-- Write the list of waiting inputs. -/
def State.setInp (s : State) (v : List Input) : State := { s with inp := v }
/-- Write the arbiter's counter. -/
def State.setArb (s : State) (v : Nat) : State := { s with arb := v }

end Sys2Proof.Machine
end

