-- ==== Sys2Proof/Machine/Flags.lean ====
section
/-! DEFINITION. The flags: `ZF`, `CNT`, PRESENT, PRES, and the status byte and word of a response
(30_encoding.md R112, R113, R126). -/

namespace Sys2Proof.Machine

/-- A flag or label as a bit of a word (30_encoding.md R126). -/
def FState.bit : FState → Bool
  | .seekingHeader => false
  | .accumulating => true

/-- `active`: the value of `ZF` for a target, by the zone registers (42_zone_classifier.md R170). -/
def activeFlag (s : State) (t : Target) : Bool :=
  decide (t.dist.toNat > 0)
    && (decide (s16 s.x1 ≤ s16 t.x) && decide (s16 t.x ≤ s16 s.x2))
    && (decide (s16 s.y1 ≤ s16 t.y) && decide (s16 t.y ≤ s16 s.y2))

/-- PRESENT: `DIST ≠ 0` (45_status_reads.md R222). -/
def presentFlag (t : Target) : Bool := decide (t.dist ≠ 0)

/-- The timeout a presence query uses: `TMO` for the operand 0, else the operand
(43_presence_debouncer.md R182, R183). -/
def queryTimeout (s : State) (d : Lane) : Nat := if d = 0 then s.tmo.toNat else d.toNat

/-- PRES: `LAST ≠ 0` and `LAST + t > now`, over the integers, no wrap
(43_presence_debouncer.md R182, R184). -/
def presFlag (s : State) (d : Lane) : Bool :=
  decide (s.last ≠ 0) && decide (s.last.toNat + queryTimeout s d > s.now.toNat)

/-- The status byte: `st[7]` = ILL, `st[6:2]` = 0, `st[1]`, `st[0]` (30_encoding.md R92, R113). -/
def statusByte (ill st1 st0 : Bool) : Byte :=
  BitVec.ofBool ill ++ (0 : BitVec 5) ++ BitVec.ofBool st1 ++ BitVec.ofBool st0

/-- `rsp(...)`: the response word of its named fields (30_encoding.md R92, R112). -/
def Rsp.word (r : Rsp) : Word72 := hostWord (statusByte r.ill r.st1 r.st0) r.a r.b r.c r.d

end Sys2Proof.Machine
end

