-- ==== Sys2Proof/Machine/Ops.lean ====
section
/-! DEFINITION. The operations over memory, ports and configuration that the meanings share, and the
reset input. The block has no exception to take and none to return from (60_exceptions.md R240,
R246); its one refusal is the response `ILL`, `refuseIll` below (R242). -/

namespace Sys2Proof.Machine

/-! ### The message buffer (20_memory.md R60; 00_scope.md R14) -/

/-- What an index of `BUF` that is not listed reads as: 00, the reset contents
(70_reset_and_hazards.md R260; log 8). -/
def Memory.unlisted : Byte := 0

/-- The byte listed at an index, or `Memory.unlisted`. -/
def readCells : List Host.Cell → Nat → Byte
  | [], _ => Memory.unlisted
  | (k, v) :: rest, a => if k = a then v else readCells rest a

/-- `BUF[a]`. -/
def Memory.read (m : Memory) (a : Nat) : Byte := readCells m.cells a

/-- Put an entry in front of the first one with an index that is not smaller. -/
def insertCell : List Host.Cell → Nat → Byte → List Host.Cell
  | [], a, b => [(a, b)]
  | (k, v) :: rest, a, b =>
    if k < a then (k, v) :: insertCell rest a b else (a, b) :: (k, v) :: rest

/-- `BUF[a] <- b`. The byte an unlisted index reads as gets no entry. -/
def Memory.write (m : Memory) (a : Nat) (b : Byte) : Memory :=
  let others := m.cells.filter fun c => c.1 ≠ a
  ⟨if b = Memory.unlisted then others else insertCell others a b⟩

/-- The canonical form: indices strictly rising and inside `BUF`, no entry equal to what an unlisted
index reads as. -/
abbrev Memory.wf (m : Memory) : Prop :=
  m.cells.Pairwise (fun p q => p.1 < q.1) ∧ ∀ c ∈ m.cells, c.1 < bufCap ∧ c.2 ≠ Memory.unlisted

/-- `MemRead(a, n)`: `n` bytes of `BUF` from index `a`, little-endian (00_scope.md R14). -/
def memRead (m : Memory) (a : Nat) : Nat → Nat
  | 0 => 0
  | n + 1 => (m.read a).toNat + 256 * memRead m (a + 1) n

/-- `MemWrite(a, n, v)`: the `n` low bytes of `v` to `BUF`, the least significant at `a`
(00_scope.md R14). -/
def memWrite (m : Memory) (a : Nat) : Nat → Nat → Memory
  | 0, _ => m
  | n + 1, v => memWrite (m.write a (BitVec.ofNat 8 (v % 256))) (a + 1) n (v / 256)

/-! ### Answers of the HOST port (30_encoding.md R112) -/

/-- Return `rsp(...)`: one response word. -/
def answer (r : Rsp) (s : State) : State := s.setRsp (some r.word)

/-- Return nothing: an RX operation has no response (30_encoding.md R90). -/
def noAnswer (s : State) : State := s.setRsp none

/-- The refusal: `rsp(ILL = 1)` and no state change (30_encoding.md R118, R120; 60_exceptions.md R242). -/
def refuseIll (s : State) : State := answer { ill := true } s

/-! ### The Configuration Store (44_configuration.md) -/

/-- Store a configuration in the working registers. -/
def storeCfg (c : Cfg) (s : State) : State :=
  s.setConfig c.tmo (toLane c.x1) (toLane c.x2) (toLane c.y1) (toLane c.y2)

/-- `cfgload()` (44_configuration.md R192). -/
def cfgload (s : State) : State := storeCfg (loadSlot s.slot) s

/-- `cfgsave()` (44_configuration.md R195). -/
def cfgsave (s : State) : State :=
  s.setSlot (saveBytes s.tmo (s16 s.x1) (s16 s.x2) (s16 s.y1) (s16 s.y2))

/-- What the four set operations share: save the requested record to the slot, load it, return
`rsp()` (44_configuration.md R199, R200). -/
def persist (bytes : Vector Byte 5) (s : State) : State := answer {} (cfgload (s.setSlot bytes))

/-! ### The reset input (70_reset_and_hazards.md R260) -/

/-- `RESET(serial_avail)`: every register of the block is written (R260, R261). The inputs that still
wait, the sampled `now` and the arbiter's counter are the environment's and stay; a reset has no
response (logs 5, 10). -/
def resetBlock (avail : Bool) (s : State) : State :=
  cfgload
    { s with
      w := #v[0, 0, 0, 0]
      buf := ⟨[]⟩
      len := 0
      fstate := .seekingHeader
      tgt := #v[Target.reset, Target.reset, Target.reset]
      cnt := 0
      last := 0
      en := avail
      slot := #v[0, 0, 0, 0, 0]
      rsp := none }

/-! ### Taking the next input (00_scope.md R5, R6) -/

/-- What a step has to do. -/
inductive Task where
  /-- No input waits: the block starts nothing by itself (R5). -/
  | idle
  /-- The reset input with its strap. -/
  | reset (avail : Bool)
  /-- One word of a port. -/
  | word (p : PortWord)
  deriving DecidableEq, Repr

/-- An RX byte and a HOST word that arrive together become the two operations in one of the two
orders; the free value says which (60_exceptions.md R245; log 6). Both get the one `now` of the
arrival: DESIGN CHOICE (log 6). -/
def serialise (s : State) : State :=
  match s.inp with
  | .both b w t :: rest =>
    (s.setInp (if Config.rxFirst s.arb then .rx b t :: .host w t :: rest
      else .host w t :: .rx b t :: rest)).setArb (s.arb + 1)
  | _ => s

/-- Take the oldest waiting input and sample its `now`. A coincident arrival is serialised before
(`serialise`), so its arm is not reached from `step`; it leaves the state as it is. -/
def takeInput (s : State) : Task × State :=
  match s.inp with
  | .rx b t :: rest => (.word (.rx b), (s.setInp rest).setNow t)
  | .host w t :: rest => (.word (.host w), (s.setInp rest).setNow t)
  | .reset v :: rest => (.reset v, s.setInp rest)
  | .both _ _ _ :: _ => (.idle, s)
  | [] => (.idle, s)

/-- The input that presents a word on its port with a given `now`. -/
def inputOf (p : PortWord) (t : Time) : Input :=
  match p with
  | .rx b => .rx b t
  | .host w => .host w t

end Sys2Proof.Machine
end

