-- ==== Sys2Proof/Machine/Presence.lean ====
section
/-! DEFINITION. `QPRES`, the reading half of the Presence Debouncer (43_presence_debouncer.md). -/

namespace Sys2Proof.Machine

/-- `QPRES d`: the presence bit at the sampled `now`; no register changes
(43_presence_debouncer.md R182). -/
def execQpres (d : Lane) (s : State) : Host.Outcome State Fault Refusal :=
  .next (answer { st0 := presFlag s d } s)

end Sys2Proof.Machine
end

