-- ==== Sys2Proof/Machine/Rx.lean ====
section
/-! DEFINITION. `RXB`: Byte Window and Frame Assembler (40_frame_assembler.md), with its sub-steps
DECODE (41_target_decoder.md), CLASSIFY (42_zone_classifier.md) and STAMP
(43_presence_debouncer.md). -/

namespace Sys2Proof.Machine

/-- Window push: the oldest byte is dropped, `b` enters at `W[3]` (40_frame_assembler.md R132). -/
def windowPush (b : Byte) (s : State) : State := s.setW #v[s.w[1], s.w[2], s.w[3], b]

/-- Append: store at `BUF[LEN]` and advance `LEN`, unless `LEN = 32` (40_frame_assembler.md R133). -/
def appendByte (b : Byte) (s : State) : State :=
  if h : s.len.val < 32 then
    (s.setBuf (memWrite s.buf s.len.val 1 b.toNat)).setLen ⟨s.len.val + 1, by omega⟩
  else s

/-- The header test on the window (40_frame_assembler.md R134). -/
def headerSeen (s : State) : Bool :=
  decide (s.w[0] = header0) && decide (s.w[1] = header1) && decide (s.w[2] = header2)
    && decide (s.w[3] = header3)

/-- A header match: the buffer holds exactly the 4 header bytes (40_frame_assembler.md R134). -/
def takeHeader (s : State) : State :=
  let m := memWrite s.buf 0 1 header0.toNat
  let m := memWrite m 1 1 header1.toNat
  let m := memWrite m 2 1 header2.toNat
  let m := memWrite m 3 1 header3.toNat
  ((s.setBuf m).setLen 4).setFstate .accumulating

/-- The footer condition, on length and window only (40_frame_assembler.md R136). -/
def footerSeen (s : State) : Bool :=
  decide (s.len.val = frameLen) && decide (s.w[2] = footer0) && decide (s.w[3] = footer1)

/-- The raw 16-bit field at an offset of record `i` (41_target_decoder.md R151; 20_memory.md R61). -/
def rawField (m : Memory) (i off : Nat) : Lane :=
  BitVec.ofNat 16 (memRead m (recBase + recLen * i + off) 2)

/-- The numeric registers of slot `i`, decoded from record `i`; the flag is left as it was
(41_target_decoder.md R150, R154, R155). -/
def decodeSlot (m : Memory) (i : Nat) (old : Target) : Target :=
  let x := smdec (rawField m i offX)
  let y := -smdec (rawField m i offY)
  let v := smdec (rawField m i offSpd)
  { x := toLane x, y := toLane y, spd := toLane v, dist := BitVec.ofNat 16 (rdist x y), zf := old.zf }

/-- `DECODE()`, all three slots (41_target_decoder.md R150). -/
def decodeTargets (s : State) : State :=
  s.setTgt #v[decodeSlot s.buf 0 s.tgt[0], decodeSlot s.buf 1 s.tgt[1], decodeSlot s.buf 2 s.tgt[2]]

/-- A target with its flag set by the zone (42_zone_classifier.md R170). -/
def flagged (s : State) (t : Target) : Target := { t with zf := activeFlag s t }

/-- The number of active targets among three (42_zone_classifier.md R172). -/
def countActive (s : State) : BitVec 2 :=
  BitVec.ofNat 2
    ((activeFlag s s.tgt[0]).toNat + (activeFlag s s.tgt[1]).toNat + (activeFlag s s.tgt[2]).toNat)

/-- `CLASSIFY()`, all three flags and the count (42_zone_classifier.md R170, R172). -/
def classify (s : State) : State :=
  (s.setTgt #v[flagged s s.tgt[0], flagged s s.tgt[1], flagged s s.tgt[2]]).setCnt (countActive s)

/-- `STAMP(now)`: level-triggered (43_presence_debouncer.md R180, R181). -/
def stamp (s : State) : State := if s.cnt.toNat > 0 then s.setLast s.now else s

/-- A complete frame: DECODE, CLASSIFY, STAMP, then length and label (40_frame_assembler.md R137). -/
def completeFrame (s : State) : State :=
  ((stamp (classify (decodeTargets s))).setLen 0).setFstate .seekingHeader

/-- Header test first, footer test only if it fails (40_frame_assembler.md R130, R135). -/
def assemble (s : State) : State :=
  if headerSeen s then takeHeader s else if footerSeen s then completeFrame s else s

/-- What a byte does to the registers: nothing with `EN = 0` (40_frame_assembler.md R130, R131). -/
def receiveByte (b : Byte) (s : State) : State :=
  if s.en then assemble (appendByte b (windowPush b s)) else s

/-- `RXB b` (40_frame_assembler.md R130): no response. -/
def execRxb (b : Byte) (s : State) : Host.Outcome State Fault Refusal :=
  .next (noAnswer (receiveByte b s))

end Sys2Proof.Machine
end

