-- ==== Sys2Proof/Machine/Status.lean ====
section
/-! DEFINITION. The status and inspection reads (45_status_reads.md). None changes a register
(20_memory.md R68). -/

namespace Sys2Proof.Machine

/-- `NOP` (45_status_reads.md R220). -/
def execNop (s : State) : Host.Outcome State Fault Refusal := .next (answer {} s)

/-- `RDSTAT` (45_status_reads.md R221). -/
def execRdstat (s : State) : Host.Outcome State Fault Refusal :=
  .next (answer
    { st0 := s.en, st1 := s.fstate.bit, c := s.cnt.setWidth 16, d := BitVec.ofNat 16 s.len.val } s)

/-- `RDWIN`: the older byte of a pair in the high half of its lane (45_status_reads.md R224,
30_encoding.md R110). -/
def execRdwin (s : State) : Host.Outcome State Fault Refusal :=
  .next (answer { c := s.w[0] ++ s.w[1], d := s.w[2] ++ s.w[3] } s)

/-- `RDBUF d`: refused for an index at or beyond `LEN` (45_status_reads.md R225). -/
def execRdbuf (d : Lane) (s : State) : Host.Outcome State Fault Refusal :=
  .next (if d.toNat ≥ s.len.val then refuseIll s
    else answer { d := BitVec.ofNat 16 (memRead s.buf d.toNat 1) } s)

/-- The response of `RDTGT` for one record (45_status_reads.md R222). -/
def targetRsp (t : Target) : Rsp :=
  { st0 := t.zf, st1 := presentFlag t, a := t.x, b := t.y, c := t.spd, d := t.dist }

/-- `RDTGT d`: refused for a slot number of 3 or more (45_status_reads.md R222). -/
def execRdtgt (d : Lane) (s : State) : Host.Outcome State Fault Refusal :=
  .next (if h : d.toNat < 3 then answer (targetRsp s.tgt[d.toNat]) s else refuseIll s)

/-- `RDLAST`: high half in lane `c`, low half in lane `d` (45_status_reads.md R223). -/
def execRdlast (s : State) : Host.Outcome State Fault Refusal :=
  .next (answer { c := s.last.extractLsb' 16 16, d := s.last.extractLsb' 0 16 } s)

/-- `RDCFG` (45_status_reads.md R226). -/
def execRdcfg (s : State) : Host.Outcome State Fault Refusal :=
  .next (answer { a := s.x1, b := s.x2, c := s.y1, d := s.y2 } s)

/-- `RDTMO` (45_status_reads.md R227). -/
def execRdtmo (s : State) : Host.Outcome State Fault Refusal :=
  .next (answer { d := s.tmo.setWidth 16 } s)

end Sys2Proof.Machine
end

