-- ==== Sys2Proof/Machine/Store.lean ====
section
/-! DEFINITION. The operations of the Configuration Store (44_configuration.md). -/

namespace Sys2Proof.Machine

/-- `SETT d` (44_configuration.md R201). -/
def execSett (d : Lane) (s : State) : Host.Outcome State Fault Refusal :=
  .next (persist (saveBytes (encTimeout d) (s16 s.x1) (s16 s.x2) (s16 s.y1) (s16 s.y2)) s)

/-- `SETD c d`: x is forced to the full range (44_configuration.md R202). -/
def execSetd (c d : Lane) (s : State) : Host.Outcome State Fault Refusal :=
  .next (persist (saveBytes s.tmo xMin xMax (s16 c) (s16 d)) s)

/-- `SETZ a b c d` (44_configuration.md R203). -/
def execSetz (a b c d : Lane) (s : State) : Host.Outcome State Fault Refusal :=
  .next (persist (saveBytes s.tmo (s16 a) (s16 b) (s16 c) (s16 d)) s)

/-- `ZDEF`: the bytes 68, 188, 128, 188 of the default zone; the timeout is kept
(44_configuration.md R204). -/
def execZdef (s : State) : Host.Outcome State Fault Refusal :=
  .next (persist #v[s.tmo, 68, 188, 128, 188] s)

/-- `CFGLD` (44_configuration.md R194). -/
def execCfgld (s : State) : Host.Outcome State Fault Refusal := .next (answer {} (cfgload s))

/-- `CFGSV` (44_configuration.md R206). -/
def execCfgsv (s : State) : Host.Outcome State Fault Refusal := .next (answer {} (cfgsave s))

/-- `SLOTW c d`: one byte of the slot; an index of 5 or more is refused (44_configuration.md R196). -/
def execSlotw (c : Lane) (d : Byte) (s : State) : Host.Outcome State Fault Refusal :=
  .next (if h : c.toNat < 5 then answer {} (s.setSlot (s.slot.set c.toNat d)) else refuseIll s)

/-- `SLOTR c`: an index of 5 or more is refused (44_configuration.md R197). -/
def execSlotr (c : Lane) (s : State) : Host.Outcome State Fault Refusal :=
  .next (if h : c.toNat < 5 then answer { d := s.slot[c.toNat].setWidth 16 } s else refuseIll s)

end Sys2Proof.Machine
end

