-- ==== Sys2Proof/Machine/Dispatch.lean ====
section
/-! DEFINITION. The meaning of every operation of 30_encoding.md R100, one arm each. -/

namespace Sys2Proof.Machine

def exec (i : Instr) (s : State) : Host.Outcome State Fault Refusal :=
  match i with
  | .rxb b => Sys2Proof.Machine.execRxb b s
  | .nop => Sys2Proof.Machine.execNop s
  | .qpres d => Sys2Proof.Machine.execQpres d s
  | .rdstat => Sys2Proof.Machine.execRdstat s
  | .rdwin => Sys2Proof.Machine.execRdwin s
  | .rdbuf d => Sys2Proof.Machine.execRdbuf d s
  | .rdtgt d => Sys2Proof.Machine.execRdtgt d s
  | .rdlast => Sys2Proof.Machine.execRdlast s
  | .rdcfg => Sys2Proof.Machine.execRdcfg s
  | .rdtmo => Sys2Proof.Machine.execRdtmo s
  | .sett d => Sys2Proof.Machine.execSett d s
  | .setd c d => Sys2Proof.Machine.execSetd c d s
  | .setz a b c d => Sys2Proof.Machine.execSetz a b c d s
  | .zdef => Sys2Proof.Machine.execZdef s
  | .cfgld => Sys2Proof.Machine.execCfgld s
  | .cfgsv => Sys2Proof.Machine.execCfgsv s
  | .slotw c d => Sys2Proof.Machine.execSlotw c d s
  | .slotr c => Sys2Proof.Machine.execSlotr c s

end Sys2Proof.Machine
end

