-- ==== Sys2Proof/Machine/Run.lean ====
section
/-! DEFINITION. Running the task a step has taken (00_scope.md R6). -/

namespace Sys2Proof.Machine

/-- Run one task: nothing when no input waits (00_scope.md R5), the reset input (R260), or the
operation a port word decodes to. A reserved opcode is answered with `ILL` (30_encoding.md R118;
log 9). -/
def runTask (k : Task) (s : State) : Host.Outcome State Fault Refusal :=
  match k with
  | .idle => .next s
  | .reset v => .next (resetBlock v s)
  | .word p =>
    match decode p with
    | .ok i => exec i s
    | .error _ => .next (refuseIll s)

end Sys2Proof.Machine
end

