-- ==== Sys2Proof/Machine/Step.lean ====
section
/-! DEFINITION. The step (00_scope.md R6): order a coincident arrival, take the oldest waiting input,
run it. -/

namespace Sys2Proof.Machine

/-- One operation of the block: atomic, total, one next state (00_scope.md R6, R7). -/
def step (s : State) : Host.Outcome State Fault Refusal :=
  runTask (takeInput (serialise s)).1 (takeInput (serialise s)).2

/-- Present the word of an opcode-table row as the oldest waiting input, with the `now` that State
holds, so that the next step takes it (log 3). -/
def State.withFetchWord (s : State) (nbits w : Nat) : State :=
  s.setInp (inputOf (tableWord nbits w) s.now :: s.inp)

end Sys2Proof.Machine
end

