-- ==== Sys2Proof/Safety.lean ====
section
/-! DEFINITION. The terms the claims use: what a stored value means, when the parts of a state are
sound, and which parts two states share. Written from the rules directly, in closed form, not over
the functions of Machine/, so that a claim compares two accounts of one rule. -/

namespace Sys2Proof.Safety
open Sys2Proof.Machine

/-! ### Values -/

/-- A sign-magnitude field of two bytes, low byte first: bit 15 is the sign, bits 14:0 the magnitude
(30_encoding.md R96). -/
def signMagnitude (lo hi : Byte) : Int :=
  let magnitude : Int := (lo.toNat : Int) + 256 * ((hi.toNat % 128 : Nat) : Int)
  if hi.toNat < 128 then magnitude else -magnitude

/-- `d` is the integer nearest to the square root of `n` (41_target_decoder.md R156): the root lies
strictly between `d - 1/2` and `d + 1/2`; no tie can occur. -/
def IsNearestRoot (d n : Nat) : Prop :=
  4 * n < (2 * d + 1) ^ 2 ∧ (d = 0 ∨ (2 * d - 1) ^ 2 < 4 * n)

/-- The millimetres of a persisted bound byte (44_configuration.md R190). -/
def millimetres (b : Byte) : Int := 100 * (b.toNat : Int) - 12800

/-- `b` is the byte that persists the bound `v` (44_configuration.md R191): `v / 100` truncated
toward zero, plus 128, saturated to 0..255. -/
def PersistsBound (b : Byte) (v : Int) : Prop :=
  (b.toNat : Int) = max 0 (min 255 (Int.tdiv v 100 + 128))

/-- A target lies in the zone and passes the distance gate (42_zone_classifier.md R170). -/
def InZone (s : State) (t : Target) : Prop :=
  0 < t.dist.toNat ∧ s.x1.toInt ≤ t.x.toInt ∧ t.x.toInt ≤ s.x2.toInt
    ∧ s.y1.toInt ≤ t.y.toInt ∧ t.y.toInt ≤ s.y2.toInt

/-- The number of slots whose flag is set (10_state.md R31). -/
def flagCount (v : Vector Target 3) : Nat := v[0].zf.toNat + v[1].zf.toNat + v[2].zf.toNat

/-- The working registers are `cfgload` of the current slot (44_configuration.md R192), each axis in
closed form: the lower bound clamped from below, the upper bound clamped from above and replaced by
the maximum where it does not lie above the lower one. -/
def LoadedFromSlot (s : State) : Prop :=
  (s.slot[0] = 0 → s.tmo = Config.defaultTimeout) ∧ (s.slot[0] ≠ 0 → s.tmo = s.slot[0])
  ∧ s.x1.toInt = max (-6000) (millimetres s.slot[1])
  ∧ (min 6000 (millimetres s.slot[2]) ≤ s.x1.toInt → s.x2.toInt = 6000)
  ∧ (s.x1.toInt < min 6000 (millimetres s.slot[2]) →
      s.x2.toInt = min 6000 (millimetres s.slot[2]))
  ∧ s.y1.toInt = max 0 (millimetres s.slot[3])
  ∧ (min 6000 (millimetres s.slot[4]) ≤ s.y1.toInt → s.y2.toInt = 6000)
  ∧ (s.y1.toInt < min 6000 (millimetres s.slot[4]) →
      s.y2.toInt = min 6000 (millimetres s.slot[4]))

/-! ### Words -/

/-- Two words say the same on one port: RX words byte for byte; HOST words in the opcode and in every
operand bit that the operation of that opcode names (30_encoding.md R100 to R102, R119). -/
def SameNamedBits (p q : PortWord) : Prop :=
  match p, q with
  | .rx a, .rx b => a = b
  | .host v, .host w =>
    topByte v = topByte w
    ∧ ((topByte w).toNat = 0x0B → laneA v = laneA w ∧ laneB v = laneB w)
    ∧ ((topByte w).toNat ∈ [0x0A, 0x0B, 0x0F, 0x10] → laneC v = laneC w)
    ∧ ((topByte w).toNat ∈ [0x01, 0x04, 0x05, 0x09, 0x0A, 0x0B] → laneD v = laneD w)
    ∧ ((topByte w).toNat = 0x0F → (laneD v).toNat % 256 = (laneD w).toNat % 256)
  | _, _ => False

/-! ### Responses -/

/-- The response of a refused HOST operation (30_encoding.md R112): `80 0000 0000 0000 0000`. -/
def illWord : Word72 := 0x800000000000000000

/-- The fields of a response word (30_encoding.md R92): status byte and lanes, as numbers. -/
def HasFields (r : Word72) (st a b c d : Nat) : Prop :=
  (topByte r).toNat = st ∧ (laneA r).toNat = a ∧ (laneB r).toNat = b
    ∧ (laneC r).toNat = c ∧ (laneD r).toNat = d

/-! ### Events on the RX port -/

/-- This byte completes the header magic in the window (40_frame_assembler.md R134). -/
def CompletesHeader (s : State) (b : Byte) : Prop :=
  s.w[1] = 0xAA ∧ s.w[2] = 0xFF ∧ s.w[3] = 0x03 ∧ b = 0x00

/-- This byte is the second footer byte and brings `LEN` to 30 (40_frame_assembler.md R136). -/
def CompletesFrame (s : State) (b : Byte) : Prop :=
  s.len.val = 29 ∧ s.w[3] = 0x55 ∧ b = 0xCC

/-- Receive bytes one after the other on the RX port, all with the sampled `now` of the state. -/
def feed : List Byte → State → Host.Outcome State Fault Refusal
  | [], s => .next s
  | b :: rest, s =>
    match exec (.rxb b) s with
    | .next t => feed rest t
    | .fault f => .fault f
    | .refused r => .refused r

/-- The four bytes `AA FF 03 00` stand in a list of bytes at position `k`. -/
def HeaderAt (l : List Byte) (k : Nat) : Prop :=
  l[k]? = some 0xAA ∧ l[k + 1]? = some 0xFF ∧ l[k + 2]? = some 0x03 ∧ l[k + 3]? = some 0x00

/-! ### What a record decodes to -/

/-- The numeric registers of a target are those of the 6 field bytes `f 0 .. f 5` of its record
(41_target_decoder.md R150): x, y negated, speed, distance to the nearest integer. -/
def DecodedFrom (t : Target) (f : Nat → Byte) : Prop :=
  t.x.toInt = signMagnitude (f 0) (f 1)
  ∧ t.y.toInt = -signMagnitude (f 2) (f 3)
  ∧ t.spd.toInt = signMagnitude (f 4) (f 5)
  ∧ IsNearestRoot t.dist.toNat (t.x.toInt * t.x.toInt + t.y.toInt * t.y.toInt).toNat

/-! ### Sound states -/

/-- The message buffer is sound: canonical, label and length agree, and while bytes are still being
appended the newest valid bytes are those of the window. -/
def BufferSound (s : State) : Prop :=
  s.buf.wf
  ∧ (s.fstate = .accumulating → 4 ≤ s.len.val)
  ∧ (s.len.val ≤ 31 → ∀ k, (h : k < 4) → k < s.len.val → s.buf.read (s.len.val - 1 - k) = s.w[3 - k])

/-- One target record is sound (10_state.md R27; 45_status_reads.md R222): its numbers lie in the
ranges a decoded field can have, the distance is that of its coordinates, and only a present target
has its flag set. -/
def TargetSound (t : Target) : Prop :=
  -32767 ≤ t.x.toInt ∧ -32767 ≤ t.y.toInt ∧ -32767 ≤ t.spd.toInt
  ∧ t.dist.toNat ≤ 46340
  ∧ (t.dist.toNat = 0 ↔ t.x.toInt = 0 ∧ t.y.toInt = 0)
  ∧ IsNearestRoot t.dist.toNat (t.x.toInt * t.x.toInt + t.y.toInt * t.y.toInt).toNat
  ∧ (t.zf = true → 0 < t.dist.toNat)

/-- The target file is sound, and `CNT` is the number of flags set (10_state.md R27, R31). -/
def TargetsSound (s : State) : Prop :=
  (∀ i, (h : i < 3) → TargetSound s.tgt[i]) ∧ s.cnt.toNat = flagCount s.tgt

/-- The bounds of one axis are values that `cfgload` can leave (10_state.md R34): multiples of 100 in
range, the lower below the upper exactly when the lower is below 6000, else the upper is 6000. -/
def AxisSound (lo : Int) (a b : Lane) : Prop :=
  (∃ k : Int, a.toInt = 100 * k) ∧ (∃ k : Int, b.toInt = 100 * k)
  ∧ lo ≤ a.toInt ∧ a.toInt ≤ 12700 ∧ lo + 100 ≤ b.toInt ∧ b.toInt ≤ 6000
  ∧ (a.toInt < b.toInt ↔ a.toInt < 6000)
  ∧ (6000 ≤ a.toInt → b.toInt = 6000)

/-- The working configuration is one that `cfgload` can leave (10_state.md R33, R34). -/
def ConfigSound (s : State) : Prop :=
  s.tmo ≠ 0 ∧ AxisSound (-6000) s.x1 s.x2 ∧ AxisSound 0 s.y1 s.y2

/-- A disabled block has seen nothing (43_presence_debouncer.md R186; 45_status_reads.md R221). -/
def DisabledQuiet (s : State) : Prop :=
  s.en = false →
    s.w = #v[0, 0, 0, 0] ∧ s.len = 0 ∧ s.fstate = .seekingHeader
    ∧ s.tgt = #v[Target.reset, Target.reset, Target.reset] ∧ s.cnt = 0 ∧ s.last = 0

/-! ### States that share something -/

/-- The two states differ at most in stale bytes of `BUF`, those at `LEN` and beyond
(10_state.md R38). -/
def SameButStale (s t : State) : Prop :=
  t = { s with buf := t.buf } ∧ ∀ k, k < s.len.val → t.buf.read k = s.buf.read k

/-- The two states differ at most in `FSTATE` and the response (10_state.md R24). -/
def SameButLabel (s t : State) : Prop := t = { s with fstate := t.fstate, rsp := t.rsp }

/-- The step or operation goes on. -/
def GoesOn (o : Host.Outcome State Fault Refusal) : Prop := ∃ t, o = .next t

end Sys2Proof.Safety
end

