-- ==== Sys2Proof/WellFormed.lean ====
section
/-! DEFINITION. Well-formed operations: an index operand names an element that exists
(20_memory.md R60; 30_encoding.md R120). Every other operand is legal at every value (R119, R121,
R122). An operation that is not well-formed still has an encoding, decodes and runs: the block
answers it with `ILL` in every state (R120). So no statement about decoding or stepping needs this
check as a premise. -/

namespace Sys2Proof

/-- The index operand of the operation lies inside the array it indexes: `BUF` has 32 bytes, the
target file 3 records, `SLOT` 5 bytes (R60). -/
def Instr.wf : Instr → Bool
  | .rxb _ => true
  | .nop => true
  | .qpres _ => true
  | .rdstat => true
  | .rdwin => true
  | .rdbuf d => decide (d.toNat < 32)
  | .rdtgt d => decide (d.toNat < 3)
  | .rdlast => true
  | .rdcfg => true
  | .rdtmo => true
  | .sett _ => true
  | .setd _ _ => true
  | .setz _ _ _ _ => true
  | .zdef => true
  | .cfgld => true
  | .cfgsv => true
  | .slotw c _ => decide (c.toNat < 5)
  | .slotr c => decide (c.toNat < 5)

end Sys2Proof
end

