-- ==== Sys2Proof/Certificates/Slice0/Obligations.lean ====
section
/-! DEFINITION. The statements for the provers. Each formalises the rule its docstring names; where a
docstring names a log entry, that part is the model's own choice. -/

section
open Sys2Proof Sys2Proof.Machine Sys2Proof.Safety

/-! ### Encoding -/

/-- Decoding and encoding agree: the word of any operation decodes to that operation, with every
operand at every value; and a word decodes to an operation exactly when it says the same as that
operation's word, in the opcode and in every operand bit the operation names (30_encoding.md,
sections 1, 4, 5 and 7). -/
def Obligations.DecodeAndEncodeAgree : Prop :=
  (∀ i : Instr, decode (encode i) = .ok i)
  ∧ ∀ (i : Instr) (p : PortWord), decode p = .ok i ↔ SameNamedBits p (encode i)

/-- R119: lanes an operation does not name, and `SLOTW.d[15:8]`, are ignored. Two words with the same
opcode that agree on the bits the operation names decode alike; the bits are those that the masks
below pick. -/
def Obligations.UnusedOperandBitsAreIgnored : Prop :=
  ∀ v w : Word72, topByte v = topByte w →
    let op := (topByte v).toNat
    (op ∈ [0x0B] → laneA v = laneA w ∧ laneB v = laneB w) →
    (op ∈ [0x0A, 0x0B, 0x0F, 0x10] → laneC v = laneC w) →
    (op ∈ [0x01, 0x04, 0x05, 0x09, 0x0A, 0x0B] → laneD v = laneD w) →
    (op = 0x0F → (laneD v).toNat % 256 = (laneD w).toNat % 256) →
    decode (.host v) = decode (.host w)
      ∧ (op ≤ 0x10 → ∃ i, decode (.host v) = .ok i)

/-- A HOST word whose opcode is 11 to FF is answered with `ILL` and no register changes
(30_encoding.md, section 7, reserved opcodes). The rest is the model's: that the decoder rejects such
a word, and no other, by name and the step answers it (log 9), that the step takes it off the list of
waiting inputs (log 3) and samples its `now` (log 4). -/
def Obligations.ReservedOpcodeIsAnsweredIll : Prop :=
  (∀ w : Word72, (∃ e, decode (.host w) = .error e) ↔ 0x11 ≤ (topByte w).toNat)
  ∧ ∀ (s : State) (w : Word72) (t : Time) (rest : List Input),
      s.inp = .host w t :: rest → 0x11 ≤ (topByte w).toNat →
      step s = .next { s with inp := rest, now := t, rsp := some illWord }

/-- R122: every byte on the RX port is the operation `RXB` of that byte, and every state takes
it to a next state, without a response. -/
def Obligations.EveryRxByteIsAccepted : Prop :=
  ∀ b : Byte, decode (.rx b) = .ok (.rxb b)
    ∧ ∀ s, ∃ t, exec (.rxb b) s = .next t ∧ t.rsp = none

/-- Command words written out in the spec decode to the operations they stand for
(95_test_vectors.md, sections 1 and 3). -/
def Obligations.SpecWordsDecode : Prop :=
  decode (.host 0x0BFC1803E800000BB8) = .ok (.setz (-1000) 1000 0 3000)
  ∧ decode (.host 0x01000000000000000A) = .ok (.qpres 10)
  ∧ decode (.host 0x0FAAAABBBB000012FE) = .ok (.slotw 0 0xFE)
  ∧ decode (.host 0x00DEADBEEF12345678) = .ok .nop
  ∧ decode (.rx 0xCC) = .ok (.rxb 0xCC)

/-! ### The step -/

/-- A step runs the operation that the oldest waiting word decodes to, on the state whose input list
has lost it and whose time input is the one it was presented with (00_scope.md, section 4; the list
and the sampled time are the model's, logs 3 and 4). -/
def Obligations.StepRunsTheDecodedOperation : Prop :=
  ∀ (s : State) (p : PortWord) (t : Time) (rest : List Input) (i : Instr),
    s.inp = inputOf p t :: rest → decode p = .ok i →
    step s = exec i { s with inp := rest, now := t }

/-- The block has no agent of its own: with no input waiting a step changes nothing (00_scope.md,
section 4, agents; the empty list is the model's way to say it, log 3). -/
def Obligations.NothingHappensWithoutInput : Prop :=
  ∀ s : State, s.inp = [] → step s = .next s

/-- A byte and a command that arrive together are processed as one of the two possible sequences;
which one is left open (60_exceptions.md, section 3, operations arriving together). The counter of the
free value, and that both sample the one `now` of the arrival, are the model's choice (log 6). -/
def Obligations.CoincidentArrivalIsOneOfTwoSequences : Prop :=
  ∀ (s : State) (b : Byte) (w : Word72) (t : Time) (rest : List Input),
    s.inp = .both b w t :: rest →
    step s = step { s with inp := .rx b t :: .host w t :: rest, arb := s.arb + 1 }
    ∨ step s = step { s with inp := .host w t :: .rx b t :: rest, arb := s.arb + 1 }

/-- R260, R261: the reset input writes every register of the block, from any state: the zeroed slot
is loaded, which gives the default zone and `DEFAULT_TIMEOUT`, and `EN` is the strap. -/
def Obligations.ResetInputWritesEveryRegister : Prop :=
  ∀ (s : State) (v : Bool) (rest : List Input), s.inp = .reset v :: rest →
    ∃ t, step s = .next t
      ∧ t.w = #v[0, 0, 0, 0] ∧ (∀ a, t.buf.read a = 0) ∧ t.len.val = 0 ∧ t.fstate = .seekingHeader
      ∧ (∀ i, (h : i < 3) → t.tgt[i] = ⟨0, 0, 0, 0, false⟩)
      ∧ t.cnt = 0 ∧ t.last = 0 ∧ t.en = v ∧ t.slot = #v[0, 0, 0, 0, 0]
      ∧ t.tmo = Config.defaultTimeout
      ∧ t.x1.toInt = -6000 ∧ t.x2.toInt = 6000 ∧ t.y1.toInt = 0 ∧ t.y2.toInt = 6000
      ∧ LoadedFromSlot t

/-- The reset input, from any state, gives the state after reset with the strap in `EN`; the waiting
inputs, the sampled time and the arbiter's counter, which are not the block's, stay, and there is no
response. What stays is the model's choice (logs 5, 10), as is the strap of `State.reset` (log 1). -/
def Obligations.ResetInputGivesTheResetState : Prop :=
  ∀ (s : State) (v : Bool) (rest : List Input), s.inp = .reset v :: rest →
    step s = .next { State.reset with en := v, now := s.now, inp := rest, arb := s.arb }

/-- R240: no operation raises an exception in any state: every operation in every state has a next
state, and so has every step. -/
def Obligations.NoOperationRaisesAnException : Prop :=
  (∀ (i : Instr) (s : State), GoesOn (exec i s)) ∧ ∀ s : State, GoesOn (step s)

/-- The block never halts: any number of steps from any state goes on (00_scope.md, section 4, end of
a run). -/
def Obligations.NoRunEverStops : Prop :=
  ∀ (k : Nat) (s : State), GoesOn (Sys2Proof.core.run k s)

/-! ### RXB -/

/-- R131: with `EN = 0` an `RXB` changes nothing at all. -/
def Obligations.DisabledRxbChangesNothing : Prop :=
  ∀ (b : Byte) (s : State), s.en = false → exec (.rxb b) s = .next { s with rsp := none }

/-- R132: every `RXB` that is not ignored shifts the window by one, whatever `LEN` and `FSTATE` are.
And no `RXB` reaches the configuration, the slot, the enable or the response port: it changes at most
the window, the buffer with `LEN` and `FSTATE`, the target file, `CNT` and `LAST`. -/
def Obligations.RxbShiftsTheWindowAndReachesNoConfiguration : Prop :=
  ∀ (b : Byte) (s : State), ∃ t, exec (.rxb b) s = .next t
    ∧ (s.en = true → t.w = #v[s.w[1], s.w[2], s.w[3], b])
    ∧ t = { s with w := t.w, buf := t.buf, len := t.len, fstate := t.fstate, tgt := t.tgt,
                   cnt := t.cnt, last := t.last, rsp := none }

/-- A byte that completes the header in the window makes `LEN` 4, `FSTATE` ACCUMULATING and `BUF[0..3]`
the header, whatever `LEN` and `FSTATE` were; nothing else changes but the window and the byte this
operation appended (40_frame_assembler.md, section 2, and section 6, first row of the transition
table, which the spec derives). The last clause is about stale bytes, which the spec leaves without
effect: that they keep what was stored there is the model's reading (log 8). -/
def Obligations.HeaderRestartsTheBuffer : Prop :=
  ∀ (b : Byte) (s : State), s.en = true → CompletesHeader s b →
    ∃ t, exec (.rxb b) s = .next t
      ∧ t = { s with w := #v[0xAA, 0xFF, 0x03, 0x00], buf := t.buf, len := 4,
                     fstate := .accumulating, rsp := none }
      ∧ t.buf.read 0 = 0xAA ∧ t.buf.read 1 = 0xFF ∧ t.buf.read 2 = 0x03 ∧ t.buf.read 3 = 0x00
      ∧ ∀ a, 4 ≤ a → t.buf.read a = (if a = s.len.val ∧ a < 32 then b else s.buf.read a)

/-- A byte that completes neither a header nor a frame is appended while `LEN < 32` and dropped at
`LEN = 32`; `FSTATE`, the target file, `CNT`, `LAST`, the configuration and every other byte of `BUF`
keep their values (40_frame_assembler.md, section 6, third row of the transition table, which the
spec derives from its rules for the push, the append, the overflow and the malformed frame). -/
def Obligations.OrdinaryByteIsAppendedOrDropped : Prop :=
  ∀ (b : Byte) (s : State), s.en = true → ¬ CompletesHeader s b → ¬ CompletesFrame s b →
    ∃ t, exec (.rxb b) s = .next t
      ∧ t = { s with w := #v[s.w[1], s.w[2], s.w[3], b], buf := t.buf, len := t.len, rsp := none }
      ∧ t.len.val = min (s.len.val + 1) 32
      ∧ ∀ a, t.buf.read a = (if a = s.len.val ∧ a < 32 then b else s.buf.read a)

/-- R137, R150, R170, R172, R180: a byte that completes a frame decodes the three records of
`BUF[4..27]`, classifies the three targets by the zone registers, counts the active ones, stamps
`LAST` with `now` if there is one, and returns `LEN` to 0 and `FSTATE` to SEEKING_HEADER. Neither
`FSTATE` nor `BUF[0..3]` is asked for. The window and the bytes of `BUF` are not cleared; nothing else
changes. -/
def Obligations.CompletingByteDecodesClassifiesStamps : Prop :=
  ∀ (b : Byte) (s : State), s.en = true → CompletesFrame s b →
    ∃ t, exec (.rxb b) s = .next t
      ∧ t = { s with w := #v[s.w[1], s.w[2], s.w[3], b], buf := t.buf, len := 0,
                     fstate := .seekingHeader, tgt := t.tgt, cnt := t.cnt, last := t.last,
                     rsp := none }
      ∧ (∀ a, t.buf.read a = (if a = 29 then b else s.buf.read a))
      ∧ (∀ i, (h : i < 3) → DecodedFrom t.tgt[i] (fun k => s.buf.read (4 + 8 * i + k)))
      ∧ (∀ i, (h : i < 3) → (t.tgt[i].zf = true ↔ InZone s t.tgt[i]))
      ∧ t.cnt.toNat = flagCount t.tgt
      ∧ t.last = (if 0 < t.cnt.toNat then s.now else s.last)

/-- What a completing `RXB` delivers is a function of the 18 field bytes in `BUF[4..27]` (bytes `+6`
and `+7` of a record, the header position and the footer position do not count), and for the flags,
`CNT` and `LAST` also of the zone, `now` and the old `LAST` (40_frame_assembler.md, section 5, the
determinism property, and 41_target_decoder.md, section 4, which the spec derives). -/
def Obligations.FrameOutputDependsOnFieldBytesOnly : Prop :=
  ∀ (b : Byte) (s s' t t' : State), s.en = true → s'.en = true →
    CompletesFrame s b → CompletesFrame s' b →
    (∀ i k, i < 3 → k < 6 → s.buf.read (4 + 8 * i + k) = s'.buf.read (4 + 8 * i + k)) →
    exec (.rxb b) s = .next t → exec (.rxb b) s' = .next t' →
    (∀ i, (h : i < 3) → t.tgt[i].x = t'.tgt[i].x ∧ t.tgt[i].y = t'.tgt[i].y
      ∧ t.tgt[i].spd = t'.tgt[i].spd ∧ t.tgt[i].dist = t'.tgt[i].dist)
    ∧ (s.x1 = s'.x1 → s.x2 = s'.x2 → s.y1 = s'.y1 → s.y2 = s'.y2 →
        t.tgt = t'.tgt ∧ t.cnt = t'.cnt
        ∧ (s.now = s'.now → s.last = s'.last → t.last = t'.last))

/-- An empty or inverted zone needs no special case: with `X1 > X2` or `Y1 > Y2` a completing frame
sets no flag, counts 0 and keeps `LAST` (42_zone_classifier.md, the paragraph on an empty or inverted
zone, which the spec derives). -/
def Obligations.InvertedZoneActivatesNoTarget : Prop :=
  ∀ (b : Byte) (s : State), s.en = true → CompletesFrame s b →
    (s.x2.toInt < s.x1.toInt ∨ s.y2.toInt < s.y1.toInt) →
    ∃ t, exec (.rxb b) s = .next t
      ∧ (∀ i, (h : i < 3) → t.tgt[i].zf = false) ∧ t.cnt = 0 ∧ t.last = s.last

/-- R28: the target file and `CNT` are written by a completing `RXB` and by nothing else, all in that
one operation. -/
def Obligations.TargetFileIsWrittenByCompletingRxbOnly : Prop :=
  ∀ (i : Instr) (s t : State), exec i s = .next t →
    (t.tgt = s.tgt ∧ t.cnt = s.cnt)
    ∨ ∃ b, i = .rxb b ∧ s.en = true ∧ CompletesFrame s b
        ∧ ∀ k, (h : k < 3) → DecodedFrom t.tgt[k] (fun j => s.buf.read (4 + 8 * k + j))
            ∧ (t.tgt[k].zf = true ↔ InZone s t.tgt[k])
            ∧ t.cnt.toNat = flagCount t.tgt

/-- R32: `LAST` is written only by an `RXB` that completes a frame with `CNT > 0`, with the `now` of
that operation, and by the reset input, which clears it. -/
def Obligations.LastIsWrittenByStampOrResetOnly : Prop :=
  (∀ (i : Instr) (s t : State), exec i s = .next t →
    t.last = s.last
    ∨ ∃ b, i = .rxb b ∧ s.en = true ∧ CompletesFrame s b ∧ 0 < t.cnt.toNat ∧ t.last = s.now)
  ∧ ∀ (s t : State), step s = .next t →
    t.last = s.last
    ∨ (∃ v rest, s.inp = .reset v :: rest ∧ t.last = 0)
    ∨ (0 < t.cnt.toNat ∧ t.len.val = 0 ∧ t.last = t.now)

/-- No rule reads `FSTATE` to decide anything: two states that differ in the label alone give, under
every operation, states that differ at most in the label and in the response, and the response only
for `RDSTAT` (10_state.md, section 2, on `FSTATE`; 92_eei_decisions.md D7, D8). -/
def Obligations.LabelDecidesNothing : Prop :=
  ∀ (i : Instr) (s t : State) (f : FState), exec i s = .next t →
    ∃ u, exec i { s with fstate := f } = .next u ∧ SameButLabel t u ∧ (i ≠ .rdstat → u.rsp = t.rsp)

/-- Stale bytes of `BUF` reach no output: two states that differ in bytes at `LEN` and beyond alone
give, under every operation, states that again differ in such bytes alone; in particular the same
response, the same targets, the same everything else (10_state.md, section 6, which the spec derives). -/
def Obligations.StaleBytesReachNoOutput : Prop :=
  ∀ (i : Instr) (s s' t : State), SameButStale s s' → exec i s = .next t →
    ∃ t', exec i s' = .next t' ∧ SameButStale t t'

/-- After a completed frame (window ending in the footer, `LEN = 0`) fewer than 30 bytes complete no
frame: the target file, `CNT` and `LAST` keep their values and `LEN` is at most the number of bytes;
two completions are at least 30 operations apart (40_frame_assembler.md, section 4, on back-to-back
frames, which the spec derives). -/
def Obligations.CompletionsAreThirtyBytesApart : Prop :=
  ∀ (l : List Byte) (s : State), s.w[2] = 0x55 → s.w[3] = 0xCC → s.len.val = 0 → l.length < 30 →
    ∃ t, feed l s = .next t ∧ t.len.val ≤ l.length
      ∧ t.tgt = s.tgt ∧ t.cnt = s.cnt ∧ t.last = s.last

/-- From any state of an enabled block, whatever was received before, the 30 bytes of a frame in
which the header pattern stands only at the front decode the 24 record bytes, classify the targets,
count them, stamp `LAST`, and leave `LEN = 0` and the footer in the window; the configuration is
untouched (20_memory.md, section 2; 30_encoding.md, section 2; 40_frame_assembler.md, sections 2 to
4). -/
def Obligations.WholeFrameIsDecoded : Prop :=
  ∀ (l : List Byte) (s : State), s.en = true → l.length = 24 →
    (∀ k, 1 ≤ k → ¬ HeaderAt ([0xAA, 0xFF, 0x03, 0x00] ++ l ++ [0x55, 0xCC]) k) →
    ∃ t, feed ([0xAA, 0xFF, 0x03, 0x00] ++ l ++ [0x55, 0xCC]) s = .next t
      ∧ t = { s with w := t.w, buf := t.buf, len := 0, fstate := .seekingHeader, tgt := t.tgt,
                     cnt := t.cnt, last := t.last, rsp := none }
      ∧ t.w[2] = 0x55 ∧ t.w[3] = 0xCC
      ∧ (∀ i, (h : i < 3) → DecodedFrom t.tgt[i] (fun k => l.getD (8 * i + k) 0))
      ∧ (∀ i, (h : i < 3) → (t.tgt[i].zf = true ↔ InZone s t.tgt[i]))
      ∧ t.cnt.toNat = flagCount t.tgt
      ∧ t.last = (if 0 < t.cnt.toNat then s.now else s.last)

/-! ### Decoding of fields, distance, zone -/

/-- The correction in closed form: the low 15 bits with the sign of bit 15, in -32767..32767, zero for
`8000`, odd under a flip of bit 15 (41_target_decoder.md, section 2, closed form, which the spec
derives). -/
def Obligations.CorrectionIsSignMagnitude : Prop :=
  ∀ u : Lane,
    smdec u = (if u.toNat < 32768 then (u.toNat : Int) else -((u.toNat : Int) - 32768))
    ∧ -32767 ≤ smdec u ∧ smdec u ≤ 32767
    ∧ smdec 0x8000 = 0
    ∧ smdec (u ^^^ 0x8000) = -smdec u

/-- Encoding and correction are inverse to each other but at negative zero (30_encoding.md, section 2,
the encoder, which the spec derives; the round trip the source asks for). -/
def Obligations.CorrectionInvertsSensorEncoding : Prop :=
  (∀ v : Int, -32767 ≤ v → v ≤ 32767 → smdec (smenc v) = v)
  ∧ ∀ u : Lane, u ≠ 0x8000 → smenc (smdec u) = u

/-- R156: the distance is the integer nearest to the root of `x² + y²`; it is symmetric, zero exactly at
the origin, and at most 46340 for decoded coordinates, where it is reached. -/
def Obligations.DistanceIsNearestInteger : Prop :=
  (∀ x y : Int, IsNearestRoot (rdist x y) (x * x + y * y).toNat
    ∧ rdist x y = rdist y x ∧ rdist (-x) y = rdist x y ∧ rdist x (-y) = rdist x y
    ∧ (rdist x y = 0 ↔ x = 0 ∧ y = 0))
  ∧ (∀ x y : Int, -32767 ≤ x → x ≤ 32767 → -32767 ≤ y → y ≤ 32767 → rdist x y ≤ 46340)
  ∧ rdist 32767 32767 = 46340

/-- R171: the boundaries of the zone are inclusive: a present target on an edge or at the corners
(x1, y1) and (x2, y2) is active; one millimetre beyond any of the four boundaries it is not. -/
def Obligations.ZoneBoundariesAreInclusive : Prop :=
  ∀ (s : State) (t : Target), 0 < t.dist.toNat →
    (s.x1.toInt ≤ t.x.toInt → t.x.toInt ≤ s.x2.toInt → s.y1.toInt ≤ t.y.toInt →
      t.y.toInt ≤ s.y2.toInt → activeFlag s t = true)
    ∧ (s.x1.toInt ≤ s.x2.toInt → s.y1.toInt ≤ s.y2.toInt →
      (t.x = s.x1 → t.y = s.y1 → activeFlag s t = true)
      ∧ (t.x = s.x2 → t.y = s.y2 → activeFlag s t = true))
    ∧ (t.x.toInt = s.x1.toInt - 1 → activeFlag s t = false)
    ∧ (t.x.toInt = s.x2.toInt + 1 → activeFlag s t = false)
    ∧ (t.y.toInt = s.y1.toInt - 1 → activeFlag s t = false)
    ∧ (t.y.toInt = s.y2.toInt + 1 → activeFlag s t = false)

/-! ### Presence -/

/-- R182, R184: `QPRES d` answers whether `LAST` is not 0 and `now` lies before `LAST + t`, over the
integers, `t` being `TMO` for `d = 0` and `d` otherwise; no register changes. -/
def Obligations.QpresAnswersPresence : Prop :=
  (∀ w, topByte w = 0x01 → decode (.host w) = .ok (.qpres (laneD w)))
  ∧ ∀ (d : Lane) (s : State), ∃ r, exec (.qpres d) s = .next { s with rsp := some r }
      ∧ HasFields r
          (if s.last.toNat ≠ 0
              ∧ s.now.toNat < s.last.toNat + (if d.toNat = 0 then s.tmo.toNat else d.toNat)
            then 1 else 0) 0 0 0 0

/-- Presence is sticky: with the stamp `t0` not 0 and the timeout `T`, a query reads present for every
`now` in `[t0, t0 + T)` and absent from `t0 + T` on; with `LAST = 0` it reads absent always
(43_presence_debouncer.md, section 2, stickiness and absent cases, which the spec derives). -/
def Obligations.PresenceHoldsForTheTimeout : Prop :=
  ∀ (d : Lane) (s : State), ∃ r, exec (.qpres d) s = .next { s with rsp := some r }
    ∧ (s.last.toNat = 0 → r = 0)
    ∧ ∀ T, T = (if d.toNat = 0 then s.tmo.toNat else d.toNat) → s.last.toNat ≠ 0 →
        (s.last.toNat ≤ s.now.toNat → s.now.toNat < s.last.toNat + T → r = 0x010000000000000000)
        ∧ (s.last.toNat + T ≤ s.now.toNat → r = 0)

/-! ### Configuration Store -/

/-- R191: `enc_mm` divides by 100 toward zero and saturates; decoding the byte gives the bound back
exactly when it is a multiple of 100 in -12800..12700, and otherwise moves it toward zero to the next
multiple of 100 or to the end of the range. -/
def Obligations.BoundByteTruncatesAndSaturates : Prop :=
  ∀ v : Int, -32768 ≤ v → v ≤ 32767 →
    PersistsBound (encMm v) v
    ∧ decMm (encMm v) = millimetres (encMm v)
    ∧ (decMm (encMm v) = v ↔ (∃ k, v = 100 * k) ∧ -12800 ≤ v ∧ v ≤ 12700)
    ∧ (0 ≤ v → v ≤ 12799 → decMm (encMm v) ≤ v ∧ v < decMm (encMm v) + 100)
    ∧ (v ≤ 0 → -12899 ≤ v → v ≤ decMm (encMm v) ∧ decMm (encMm v) < v + 100)
    ∧ (12800 ≤ v → decMm (encMm v) = 12700)
    ∧ (v ≤ -12900 → decMm (encMm v) = -12800)

/-- R194: `CFGLD` leaves in the five working registers what the slot loads to, and changes nothing
else: not the slot, not the target file, `CNT` or `LAST`. -/
def Obligations.CfgldLoadsTheSlot : Prop :=
  (∀ w, topByte w = 0x0D → decode (.host w) = .ok .cfgld)
  ∧ ∀ s : State, ∃ t, exec .cfgld s = .next t
      ∧ t = { s with tmo := t.tmo, x1 := t.x1, x2 := t.x2, y1 := t.y1, y2 := t.y2, rsp := some 0 }
      ∧ LoadedFromSlot t

/-- R206, R195: `CFGSV` writes the five slot bytes from the working registers and nothing else; for
sound registers the bytes are exact. -/
def Obligations.CfgsvSavesTheRegisters : Prop :=
  (∀ w, topByte w = 0x0E → decode (.host w) = .ok .cfgsv)
  ∧ ∀ s : State, ∃ t, exec .cfgsv s = .next t
      ∧ t = { s with slot := t.slot, rsp := some 0 }
      ∧ t.slot[0] = s.tmo
      ∧ PersistsBound t.slot[1] s.x1.toInt ∧ PersistsBound t.slot[2] s.x2.toInt
      ∧ PersistsBound t.slot[3] s.y1.toInt ∧ PersistsBound t.slot[4] s.y2.toInt
      ∧ (ConfigSound s → millimetres t.slot[1] = s.x1.toInt ∧ millimetres t.slot[2] = s.x2.toInt
          ∧ millimetres t.slot[3] = s.y1.toInt ∧ millimetres t.slot[4] = s.y2.toInt)

/-- R196: `SLOTW c d` writes the byte `d[7:0]` to `SLOT[c]` and nothing else; an index of 5 or more is
refused with `ILL` and nothing is written. -/
def Obligations.SlotwWritesOneByteOrRefuses : Prop :=
  (∀ w, topByte w = 0x0F →
    ∃ d : Byte, decode (.host w) = .ok (.slotw (laneC w) d) ∧ d.toNat = (laneD w).toNat % 256)
  ∧ ∀ (c : Lane) (d : Byte) (s : State),
      (c.toNat < 5 → ∃ t, exec (.slotw c d) s = .next t
        ∧ t = { s with slot := t.slot, rsp := some 0 }
        ∧ ∀ k, (h : k < 5) → t.slot[k] = (if k = c.toNat then d else s.slot[k]))
      ∧ (5 ≤ c.toNat → exec (.slotw c d) s = .next { s with rsp := some illWord })

/-- R197: `SLOTR c` answers `SLOT[c]` in lane `d`, or `ILL` for an index of 5 or more; no register
changes. -/
def Obligations.SlotrAnswersOneByteOrRefuses : Prop :=
  (∀ w, topByte w = 0x10 → decode (.host w) = .ok (.slotr (laneC w)))
  ∧ ∀ (c : Lane) (s : State),
      ((h : c.toNat < 5) → ∃ r, exec (.slotr c) s = .next { s with rsp := some r }
        ∧ HasFields r 0 0 0 0 s.slot[c.toNat].toNat)
      ∧ (5 ≤ c.toNat → exec (.slotr c) s = .next { s with rsp := some illWord })

/-- R201: `SETT d` saves `min(d, 255)` with the current bounds and loads the slot: the timeout in
effect is `min(d, 255)`, or `DEFAULT_TIMEOUT` for a request of 0; a sound zone stays as it is; nothing
but the configuration registers and the slot changes. -/
def Obligations.SettSetsTheTimeout : Prop :=
  (∀ w, topByte w = 0x09 → decode (.host w) = .ok (.sett (laneD w)))
  ∧ ∀ (d : Lane) (s : State), ∃ t, exec (.sett d) s = .next t
      ∧ t = { s with tmo := t.tmo, x1 := t.x1, x2 := t.x2, y1 := t.y1, y2 := t.y2,
                     slot := t.slot, rsp := some 0 }
      ∧ t.slot[0].toNat = min d.toNat 255
      ∧ PersistsBound t.slot[1] s.x1.toInt ∧ PersistsBound t.slot[2] s.x2.toInt
      ∧ PersistsBound t.slot[3] s.y1.toInt ∧ PersistsBound t.slot[4] s.y2.toInt
      ∧ LoadedFromSlot t
      ∧ (d.toNat = 0 → t.tmo = Config.defaultTimeout)
      ∧ (d.toNat ≠ 0 → t.tmo.toNat = min d.toNat 255)
      ∧ (ConfigSound s → t.x1 = s.x1 ∧ t.x2 = s.x2 ∧ t.y1 = s.y1 ∧ t.y2 = s.y2)

/-- R202: `SETD c d` saves the timeout, the full x range and the two operands, and loads the slot; x is
-6000, 6000 afterwards whatever it was. -/
def Obligations.SetdSetsTheDistancePair : Prop :=
  (∀ w, topByte w = 0x0A → decode (.host w) = .ok (.setd (laneC w) (laneD w)))
  ∧ ∀ (c d : Lane) (s : State), ∃ t, exec (.setd c d) s = .next t
      ∧ t = { s with tmo := t.tmo, x1 := t.x1, x2 := t.x2, y1 := t.y1, y2 := t.y2,
                     slot := t.slot, rsp := some 0 }
      ∧ t.slot[0] = s.tmo ∧ t.slot[1].toNat = 68 ∧ t.slot[2].toNat = 188
      ∧ PersistsBound t.slot[3] c.toInt ∧ PersistsBound t.slot[4] d.toInt
      ∧ LoadedFromSlot t
      ∧ t.x1.toInt = -6000 ∧ t.x2.toInt = 6000
      ∧ (s.tmo ≠ 0 → t.tmo = s.tmo)

/-- R203: `SETZ a b c d` saves the timeout and the four operands, and loads the slot. -/
def Obligations.SetzSetsTheZone : Prop :=
  (∀ w, topByte w = 0x0B → decode (.host w) = .ok (.setz (laneA w) (laneB w) (laneC w) (laneD w)))
  ∧ ∀ (a b c d : Lane) (s : State), ∃ t, exec (.setz a b c d) s = .next t
      ∧ t = { s with tmo := t.tmo, x1 := t.x1, x2 := t.x2, y1 := t.y1, y2 := t.y2,
                     slot := t.slot, rsp := some 0 }
      ∧ t.slot[0] = s.tmo
      ∧ PersistsBound t.slot[1] a.toInt ∧ PersistsBound t.slot[2] b.toInt
      ∧ PersistsBound t.slot[3] c.toInt ∧ PersistsBound t.slot[4] d.toInt
      ∧ LoadedFromSlot t
      ∧ (s.tmo ≠ 0 → t.tmo = s.tmo)

/-- R204: `ZDEF` restores the zone -6000, 6000, 0, 6000 and keeps the timeout; it equals
`SETZ -6000 6000 0 6000` and `SETD 0 6000`. -/
def Obligations.ZdefRestoresTheDefaultZone : Prop :=
  (∀ w, topByte w = 0x0C → decode (.host w) = .ok .zdef)
  ∧ ∀ s : State, (∃ t, exec .zdef s = .next t
      ∧ t = { s with tmo := t.tmo, x1 := BitVec.ofInt 16 (-6000), x2 := 6000, y1 := 0, y2 := 6000,
                     slot := #v[s.tmo, 68, 188, 128, 188], rsp := some 0 }
      ∧ t.tmo = (if s.tmo = 0 then Config.defaultTimeout else s.tmo))
      ∧ exec .zdef s = exec (.setz (BitVec.ofInt 16 (-6000)) 6000 0 6000) s
      ∧ exec .zdef s = exec (.setd 0 6000) s

/-- R200: the set operations do not read the slot, and the fields an operation does not name come back
unchanged from sound registers. -/
def Obligations.SetOperationsDoNotReadTheSlot : Prop :=
  ∀ (s : State) (v : Vector Byte 5) (a b c d : Lane),
    (exec (.sett d) { s with slot := v } = exec (.sett d) s
      ∧ exec (.setd c d) { s with slot := v } = exec (.setd c d) s
      ∧ exec (.setz a b c d) { s with slot := v } = exec (.setz a b c d) s
      ∧ exec .zdef { s with slot := v } = exec .zdef s)
    ∧ (ConfigSound s →
        (∃ t, exec (.sett d) s = .next t ∧ t.x1 = s.x1 ∧ t.x2 = s.x2 ∧ t.y1 = s.y1 ∧ t.y2 = s.y2)
        ∧ (∃ t, exec (.setd c d) s = .next t ∧ t.tmo = s.tmo)
        ∧ (∃ t, exec (.setz a b c d) s = .next t ∧ t.tmo = s.tmo)
        ∧ (∃ t, exec .zdef s = .next t ∧ t.tmo = s.tmo))

/-- `CFGSV` then `CFGLD` changes at most the slot, for sound registers (44_configuration.md, section 2,
ranges and fits, which the spec derives). -/
def Obligations.SaveThenLoadKeepsTheRegisters : Prop :=
  ∀ s : State, ConfigSound s → ∃ t u, exec .cfgsv s = .next t ∧ exec .cfgld t = .next u
    ∧ u = { s with slot := t.slot, rsp := some 0 }

/-! ### Status and inspection reads -/

/-- R220: `NOP` answers the all-zero word and changes no register. -/
def Obligations.NopAnswersZero : Prop :=
  (∀ w, topByte w = 0x00 → decode (.host w) = .ok .nop)
  ∧ ∀ s : State, exec .nop s = .next { s with rsp := some 0 }

/-- R221: `RDSTAT` answers `EN`, `FSTATE`, `CNT` and `LEN`; a disabled block that has seen nothing
answers the all-zero word. -/
def Obligations.RdstatAnswersStatus : Prop :=
  (∀ w, topByte w = 0x02 → decode (.host w) = .ok .rdstat)
  ∧ ∀ s : State, ∃ r, exec .rdstat s = .next { s with rsp := some r }
      ∧ HasFields r (s.en.toNat + (if s.fstate = .accumulating then 2 else 0)) 0 0
          s.cnt.toNat s.len.val
      ∧ (DisabledQuiet s → s.en = false → r = 0)

/-- `RDTGT d` answers the record of slot `d` with `ZF` and PRESENT, or `ILL` for a slot number of 3 or
more (45_status_reads.md, the rule of `RDTGT`). In a sound target file a set flag implies PRESENT, and
an absent slot reads `X = Y = 0`: the spec derives the first from the classifier, and the soundness of
the target file, the premise, from its rules too (10_state.md, sections 3 and 4). -/
def Obligations.RdtgtAnswersOneSlotOrRefuses : Prop :=
  (∀ w, topByte w = 0x05 → decode (.host w) = .ok (.rdtgt (laneD w)))
  ∧ ∀ (d : Lane) (s : State),
      ((h : d.toNat < 3) → ∃ r, exec (.rdtgt d) s = .next { s with rsp := some r }
        ∧ HasFields r
            (s.tgt[d.toNat].zf.toNat + (if s.tgt[d.toNat].dist.toNat = 0 then 0 else 2))
            s.tgt[d.toNat].x.toNat s.tgt[d.toNat].y.toNat
            s.tgt[d.toNat].spd.toNat s.tgt[d.toNat].dist.toNat
        ∧ (TargetsSound s → (topByte r).toNat ≠ 1
            ∧ ((topByte r).toNat < 2 → laneA r = 0 ∧ laneB r = 0 ∧ laneD r = 0)))
      ∧ (3 ≤ d.toNat → exec (.rdtgt d) s = .next { s with rsp := some illWord })

/-- R223: `RDLAST` answers `LAST`, high half in lane `c`, low half in lane `d`. -/
def Obligations.RdlastAnswersTheStamp : Prop :=
  (∀ w, topByte w = 0x06 → decode (.host w) = .ok .rdlast)
  ∧ ∀ s : State, ∃ r, exec .rdlast s = .next { s with rsp := some r }
      ∧ HasFields r 0 0 0 (s.last.toNat / 65536) (s.last.toNat % 65536)

/-- R224: `RDWIN` answers the window, oldest byte in `c[15:8]`, newest in `d[7:0]`. -/
def Obligations.RdwinAnswersTheWindow : Prop :=
  (∀ w, topByte w = 0x03 → decode (.host w) = .ok .rdwin)
  ∧ ∀ s : State, ∃ r, exec .rdwin s = .next { s with rsp := some r }
      ∧ HasFields r 0 0 0 (256 * s.w[0].toNat + s.w[1].toNat) (256 * s.w[2].toNat + s.w[3].toNat)

/-- R225: `RDBUF d` answers the valid byte `BUF[d]`, or `ILL` for an index at or beyond `LEN`. -/
def Obligations.RdbufAnswersAValidByteOrRefuses : Prop :=
  (∀ w, topByte w = 0x04 → decode (.host w) = .ok (.rdbuf (laneD w)))
  ∧ ∀ (d : Lane) (s : State),
      (d.toNat < s.len.val → ∃ r, exec (.rdbuf d) s = .next { s with rsp := some r }
        ∧ HasFields r 0 0 0 0 (s.buf.read d.toNat).toNat)
      ∧ (s.len.val ≤ d.toNat → exec (.rdbuf d) s = .next { s with rsp := some illWord })

/-- R226: `RDCFG` answers the four bounds in effect. -/
def Obligations.RdcfgAnswersTheZone : Prop :=
  (∀ w, topByte w = 0x07 → decode (.host w) = .ok .rdcfg)
  ∧ ∀ s : State, ∃ r, exec .rdcfg s = .next { s with rsp := some r }
      ∧ HasFields r 0 s.x1.toNat s.x2.toNat s.y1.toNat s.y2.toNat

/-- R227: `RDTMO` answers the timeout in effect, never 0 for sound registers. -/
def Obligations.RdtmoAnswersTheTimeout : Prop :=
  (∀ w, topByte w = 0x08 → decode (.host w) = .ok .rdtmo)
  ∧ ∀ s : State, ∃ r, exec .rdtmo s = .next { s with rsp := some r }
      ∧ HasFields r 0 0 0 0 s.tmo.toNat
      ∧ (ConfigSound s → laneD r ≠ 0)

/-- R68: the ten reads leave every register as it was, can be repeated, and return the same response
as long as the state and, for `QPRES`, `now` are the same. -/
def Obligations.ReadsHaveNoSideEffect : Prop :=
  ∀ (i : Instr) (s : State),
    i ∈ [.nop, .rdstat, .rdwin, .rdlast, .rdcfg, .rdtmo] ∨ (∃ d, i = .qpres d) ∨ (∃ d, i = .rdbuf d)
      ∨ (∃ d, i = .rdtgt d) ∨ (∃ c, i = .slotr c) →
    ∃ t, exec i s = .next t ∧ t = { s with rsp := t.rsp } ∧ exec i t = .next t
      ∧ ∀ n, (∀ d, i ≠ .qpres d) → exec i { s with now := n } = .next { t with now := n }

/-! ### The HOST port as a whole -/

/-- A HOST operation is refused exactly in the listed cases, with the `ILL` word and no register changed;
any other answer has `st[7] = 0` (60_exceptions.md, section 1, the one refusal), and `st[6:2]` is 0 in
every answer (30_encoding.md, sections 1 and 6). The reserved opcodes are the second clause: that they
never become an operation and the step answers them is the model's (log 9), and so are the list of
waiting inputs (log 3) and the sampled `now` (log 4). -/
def Obligations.IllIsAnsweredInTheListedCasesOnly : Prop :=
  (∀ (i : Instr) (s : State), (∀ b, i ≠ .rxb b) →
    ∃ t r, exec i s = .next t ∧ t.rsp = some r
      ∧ ((128 ≤ (topByte r).toNat) ↔
          (∃ d, i = .rdtgt d ∧ 3 ≤ d.toNat) ∨ (∃ d, i = .rdbuf d ∧ s.len.val ≤ d.toNat)
          ∨ (∃ c d, i = .slotw c d ∧ 5 ≤ c.toNat) ∨ (∃ c, i = .slotr c ∧ 5 ≤ c.toNat))
      ∧ (128 ≤ (topByte r).toNat → r = illWord ∧ t = { s with rsp := some illWord })
      ∧ (topByte r).toNat % 128 < 4)
  ∧ ∀ (s : State) (w : Word72) (n : Time) (rest : List Input),
      s.inp = .host w n :: rest → 0x11 ≤ (topByte w).toNat →
      step s = .next { s with inp := rest, now := n, rsp := some illWord }

/-- R73: no HOST operation touches `W`, `BUF`, `LEN` or `FSTATE`; nor, by the rules for the target file
and the stamp, the targets, `CNT`, `LAST`, `EN` (a zone change is not retroactive). -/
def Obligations.HostOperationsLeaveAssemblerAndTargets : Prop :=
  ∀ (i : Instr) (s : State), (∀ b, i ≠ .rxb b) →
    ∃ t, exec i s = .next t
      ∧ t = { s with tmo := t.tmo, x1 := t.x1, x2 := t.x2, y1 := t.y1, y2 := t.y2,
                     slot := t.slot, rsp := t.rsp }

/-- R30: the reset input writes the strap to `EN` and no operation writes it; with `EN = 0` an
`RXB` is ignored, and the HOST operations other than `RDSTAT`, which reads it, do not depend on it. -/
def Obligations.EnableIsSetByResetOnly : Prop :=
  (∀ (s : State) (v : Bool) (rest : List Input), s.inp = .reset v :: rest →
    ∃ t, step s = .next t ∧ t.en = v)
  ∧ (∀ (i : Instr) (s : State), ∃ t, exec i s = .next t ∧ t.en = s.en)
  ∧ (∀ (b : Byte) (s : State), s.en = false → exec (.rxb b) s = .next { s with rsp := none })
  ∧ (∀ (i : Instr) (s t : State) (v : Bool), (∀ b, i ≠ .rxb b) → i ≠ .rdstat →
    exec i s = .next t → exec i { s with en := v } = .next { t with en := v })

/-- The working registers are written only by the operations that run `cfgload`, and hold what the
slot loads to whenever they are written (10_state.md, section 5; 44_configuration.md, section 5, the
one-way relation, which the spec derives). -/
def Obligations.RegistersAreTheLoadedSlotWhenWritten : Prop :=
  ∀ (i : Instr) (s t : State), exec i s = .next t →
    (t.tmo = s.tmo ∧ t.x1 = s.x1 ∧ t.x2 = s.x2 ∧ t.y1 = s.y1 ∧ t.y2 = s.y2)
    ∨ ((i = .cfgld ∨ i = .zdef ∨ (∃ d, i = .sett d) ∨ (∃ c d, i = .setd c d)
        ∨ ∃ a b c d, i = .setz a b c d) ∧ LoadedFromSlot t)

/-! ### Invariants -/

/-- The state after reset is sound (10_state.md, sections 1 and 5; 70_reset_and_hazards.md, section 1;
the strap at 1 is the model's choice, log 1). -/
def Obligations.ResetStateIsSound : Prop :=
  BufferSound State.reset ∧ TargetsSound State.reset ∧ ConfigSound State.reset
    ∧ DisabledQuiet State.reset ∧ LoadedFromSlot State.reset

/-- Every step keeps the message buffer sound: canonical, `LEN` at least 4 while ACCUMULATING, and the
newest valid bytes those of the window (10_state.md, section 2; 20_memory.md, section 2). -/
def Obligations.StepKeepsBufferSound : Prop :=
  ∀ s t : State, BufferSound s → step s = .next t → BufferSound t

/-- Every step keeps the target file sound: the ranges, the distance, the flags and `CNT`
(10_state.md, sections 3 and 4, ranges and count, which the spec derives). -/
def Obligations.StepKeepsTargetsSound : Prop :=
  ∀ s t : State, TargetsSound s → step s = .next t → TargetsSound t

/-- Every step keeps the working configuration sound: `TMO` is not 0, the bounds are multiples of 100
in range, and the lower lies below the upper exactly when it is below 6000 (10_state.md, section 5,
values the registers can hold, which the spec derives; 90_conflicts.md C3). -/
def Obligations.StepKeepsConfigurationSound : Prop :=
  ∀ s t : State, ConfigSound s → step s = .next t → ConfigSound t

/-- Every step keeps a disabled block quiet: while `EN = 0` no byte has entered the window or the
buffer, no target, count or stamp is recorded (43_presence_debouncer.md, section 2, absent cases,
which the spec derives; 45_status_reads.md, the paragraph on the disabled report). -/
def Obligations.StepKeepsDisabledBlockQuiet : Prop :=
  ∀ s t : State, DisabledQuiet s → step s = .next t → DisabledQuiet t

end
end

