-- ==== Sys2Proof/Laws/Memory.lean ====
section
/-! SUPPORT. What reading and writing `BUF` can do: a read after a write, the canonical form, and the
1- and 2-byte accesses the rules use (00_scope.md R14). -/

namespace Sys2Proof.Machine

theorem readCells_filter_same (l : List Host.Cell) (a : Nat) :
    readCells (l.filter fun c => c.1 ≠ a) a = Memory.unlisted := by
  induction l with
  | nil => rfl
  | cons c rest ih =>
    by_cases h : c.1 = a
    · simpa [h] using ih
    · rw [List.filter_cons_of_pos (by simpa using h)]
      simpa [readCells, h] using ih

theorem readCells_filter_other (l : List Host.Cell) {a x : Nat} (hx : x ≠ a) :
    readCells (l.filter fun c => c.1 ≠ a) x = readCells l x := by
  induction l with
  | nil => rfl
  | cons c rest ih =>
    by_cases h : c.1 = a
    · rw [List.filter_cons_of_neg (by simpa using h), ih]
      have : c.1 ≠ x := fun hc => hx (hc.symm.trans h)
      simp [readCells, this]
    · rw [List.filter_cons_of_pos (by simpa using h)]
      simp only [readCells, ih]

theorem readCells_insert (l : List Host.Cell) (a x : Nat) (b : Byte)
    (ha : ∀ c ∈ l, c.1 ≠ a) :
    readCells (insertCell l a b) x = if x = a then b else readCells l x := by
  induction l with
  | nil => simp [insertCell, readCells, eq_comm]
  | cons c rest ih =>
    have hc := ha c (by simp)
    have hr := ih fun d hd => ha d (by simp [hd])
    by_cases h : c.1 < a
    · simp only [insertCell, h, if_true, readCells, hr]
      by_cases hx : x = a
      · subst hx; simp [hc]
      · simp [hx]
    · simp only [insertCell, h, if_false, readCells]
      by_cases hx : x = a
      · simp [hx]
      · simp [hx, Ne.symm hx]

/-- Everything a byte write does to a byte read. -/
@[simp] theorem Memory.read_write (m : Memory) (a x : Nat) (b : Byte) :
    (m.write a b).read x = if x = a then b else m.read x := by
  unfold Memory.write Memory.read
  by_cases hb : b = Memory.unlisted
  · by_cases hx : x = a
    · simp only [hb, if_true, hx, readCells_filter_same]
    · simp only [hb, if_true, hx, if_false, readCells_filter_other _ hx]
  · simp only [hb, if_false]
    rw [readCells_insert _ _ _ _ (by simp)]
    by_cases hx : x = a
    · simp [hx]
    · simp only [hx, if_false, readCells_filter_other _ hx]

theorem Memory.read_write_same (m : Memory) (a : Nat) (b : Byte) : (m.write a b).read a = b := by
  simp

theorem Memory.read_write_other (m : Memory) {a x : Nat} (b : Byte) (h : x ≠ a) :
    (m.write a b).read x = m.read x := by simp [h]

theorem mem_insertCell {l : List Host.Cell} {a : Nat} {b : Byte} {c : Host.Cell} :
    c ∈ insertCell l a b ↔ c = (a, b) ∨ c ∈ l := by
  induction l with
  | nil => simp [insertCell]
  | cons d rest ih =>
    simp only [insertCell]
    split
    · simp only [List.mem_cons, ih]; tauto
    · simp only [List.mem_cons]

theorem pairwise_insertCell {l : List Host.Cell} {a : Nat} {b : Byte}
    (h : l.Pairwise fun p q => p.1 < q.1) (ha : ∀ c ∈ l, c.1 ≠ a) :
    (insertCell l a b).Pairwise fun p q => p.1 < q.1 := by
  induction l with
  | nil => simp [insertCell]
  | cons d rest ih =>
    have hd := List.pairwise_cons.mp h
    have hda := ha d (by simp)
    simp only [insertCell]
    split
    · rename_i hlt
      refine List.pairwise_cons.mpr ⟨fun q hq => ?_, ih hd.2 fun c hc => ha c (by simp [hc])⟩
      rcases mem_insertCell.mp hq with rfl | hq
      · exact hlt
      · exact hd.1 q hq
    · refine List.pairwise_cons.mpr ⟨fun q hq => ?_, h⟩
      rcases List.mem_cons.mp hq with rfl | hq
      · show a < d.1
        omega
      · have := hd.1 q hq
        show a < q.1
        omega

/-- A write inside `BUF` keeps the canonical form. -/
theorem Memory.wf_write {m : Memory} {a : Nat} (b : Byte) (h : m.wf) (ha : a < 32) :
    (m.write a b).wf := by
  obtain ⟨hp, hm⟩ := h
  have hpf := hp.filter fun c => decide (c.1 ≠ a)
  unfold Memory.write
  by_cases hb : b = Memory.unlisted
  · simp only [Memory.wf, hb, if_true]
    exact ⟨hpf, fun c hc => hm c (List.mem_filter.mp hc).1⟩
  · simp only [Memory.wf, hb, if_false]
    refine ⟨pairwise_insertCell hpf (by simp), fun c hc => ?_⟩
    rcases mem_insertCell.mp hc with rfl | hc
    · exact ⟨ha, hb⟩
    · exact hm c (List.mem_filter.mp hc).1

theorem Memory.wf_empty : Memory.wf ⟨[]⟩ := by decide

theorem readCells_absent {l : List Host.Cell} {x : Nat} (h : ∀ c ∈ l, c.1 ≠ x) :
    readCells l x = Memory.unlisted := by
  induction l with
  | nil => rfl
  | cons c rest ih =>
    have := h c (by simp)
    simp only [readCells, this, if_false]
    exact ih fun d hd => h d (by simp [hd])

theorem cells_eq_of_read_eq {l l' : List Host.Cell}
    (hp : l.Pairwise fun p q => p.1 < q.1) (hp' : l'.Pairwise fun p q => p.1 < q.1)
    (hz : ∀ c ∈ l, c.2 ≠ Memory.unlisted) (hz' : ∀ c ∈ l', c.2 ≠ Memory.unlisted)
    (h : ∀ x, readCells l x = readCells l' x) : l = l' := by
  induction l generalizing l' with
  | nil =>
    cases l' with
    | nil => rfl
    | cons d rest' =>
      have := h d.1
      simp only [readCells, if_true] at this
      exact absurd this.symm (hz' d (by simp))
  | cons c rest ih =>
    cases l' with
    | nil =>
      have := h c.1
      simp only [readCells, if_true] at this
      exact absurd this (hz c (by simp))
    | cons d rest' =>
      have hc := List.pairwise_cons.mp hp
      have hd := List.pairwise_cons.mp hp'
      have key : c.1 = d.1 := by
        rcases lt_trichotomy c.1 d.1 with hlt | heq | hgt
        · have hx := h c.1
          have hne : d.1 ≠ c.1 := by omega
          simp only [readCells, if_true, hne, if_false] at hx
          rw [readCells_absent fun q hq => by have := hd.1 q hq; omega] at hx
          exact absurd hx (hz c (by simp))
        · exact heq
        · have hx := h d.1
          have hne : c.1 ≠ d.1 := by omega
          simp only [readCells, if_true, hne, if_false] at hx
          rw [readCells_absent fun q hq => by have := hc.1 q hq; omega] at hx
          exact absurd hx.symm (hz' d (by simp))
      have hv : c.2 = d.2 := by
        have := h c.1
        simpa [readCells, key] using this
      have hcd : c = d := Prod.ext key hv
      subst hcd
      congr 1
      refine ih hc.2 hd.2 (fun q hq => hz q (by simp [hq])) (fun q hq => hz' q (by simp [hq]))
        fun x => ?_
      by_cases hx : c.1 = x
      · rw [readCells_absent fun q hq => by have := hc.1 q hq; omega,
          readCells_absent fun q hq => by have := hd.1 q hq; omega]
      · have := h x
        simpa [readCells, hx] using this

/-- Canonical memories that read the same at every index are the same data. -/
theorem Memory.eq_of_read_eq {m n : Memory} (hm : m.wf) (hn : n.wf)
    (h : ∀ x, m.read x = n.read x) : m = n := by
  cases m; cases n
  exact congrArg Memory.mk (cells_eq_of_read_eq hm.1 hn.1 (fun c hc => (hm.2 c hc).2)
    (fun c hc => (hn.2 c hc).2) h)

@[simp] theorem memRead_one (m : Memory) (a : Nat) : memRead m a 1 = (m.read a).toNat := by
  simp [memRead]

/-- The 16-bit little-endian read (20_memory.md R63). -/
@[simp] theorem memRead_two (m : Memory) (a : Nat) :
    memRead m a 2 = (m.read a).toNat + 256 * (m.read (a + 1)).toNat := by
  simp [memRead]

@[simp] theorem memWrite_one (m : Memory) (a : Nat) (b : Byte) :
    memWrite m a 1 b.toNat = m.write a b := by
  have hb : b.toNat % 256 = b.toNat := Nat.mod_eq_of_lt b.isLt
  simp [memWrite, hb]

end Sys2Proof.Machine
end

