-- ==== Sys2Proof/Laws/Numbers.lean ====
section
/-! SUPPORT. What the number functions of the rules compute: the integer square root and its nearest
rounding, storing a signed number, the persisted bytes. -/

namespace Sys2Proof.Machine

/-- Each bit of the search keeps the root between `r` and `r + 2^k`. -/
theorem isqrtBits_spec (n k r : Nat) (hr : r * r ≤ n) (hk : n < (r + 2 ^ k) * (r + 2 ^ k)) :
    isqrtBits n k r * isqrtBits n k r ≤ n
      ∧ n < (isqrtBits n k r + 1) * (isqrtBits n k r + 1) := by
  induction k generalizing r with
  | zero => exact ⟨hr, by simpa [isqrtBits] using hk⟩
  | succ k ih =>
    simp only [isqrtBits]
    have hp : r + 2 ^ k + 2 ^ k = r + 2 ^ (k + 1) := by rw [pow_succ]; omega
    split
    · rename_i h
      exact ih _ h (by rw [hp]; exact hk)
    · rename_i h
      exact ih _ hr (by omega)

/-- `isqrt(n)` is the largest `r` with `r² ≤ n` (00_scope.md R13). -/
theorem isqrt_spec (n : Nat) : isqrt n * isqrt n ≤ n ∧ n < (isqrt n + 1) * (isqrt n + 1) := by
  refine isqrtBits_spec n _ 0 (by simp) ?_
  have h1 : n < 2 ^ (n.log2 + 1) := Nat.lt_log2_self
  have h2 : 2 ^ (n.log2 + 1) ≤ 2 ^ (n.log2 / 2 + 1) * 2 ^ (n.log2 / 2 + 1) := by
    rw [← pow_add]; exact Nat.pow_le_pow_right (by norm_num) (by omega)
  simpa using lt_of_lt_of_le h1 h2

/-- The square root is the only number between whose square and the next one `n` lies. -/
theorem isqrt_unique {n r : Nat} (h : r * r ≤ n) (h' : n < (r + 1) * (r + 1)) : isqrt n = r := by
  obtain ⟨h1, h2⟩ := isqrt_spec n
  rcases lt_trichotomy (isqrt n) r with hlt | heq | hgt
  · have := Nat.mul_le_mul (show isqrt n + 1 ≤ r by omega) (show isqrt n + 1 ≤ r by omega)
    omega
  · exact heq
  · have := Nat.mul_le_mul (show r + 1 ≤ isqrt n by omega) (show r + 1 ≤ isqrt n by omega)
    omega

/-- `rdist` is `isqrt`, or one more where the remainder exceeds the root. -/
theorem rdist_cases (x y : Int) :
    let n := (x * x + y * y).toNat
    (rdist x y = isqrt n ∧ n ≤ isqrt n * isqrt n + isqrt n)
      ∨ (rdist x y = isqrt n + 1 ∧ isqrt n * isqrt n + isqrt n < n) := by
  have h := (isqrt_spec (x * x + y * y).toNat).1
  simp only [rdist]
  split
  · right; exact ⟨rfl, by omega⟩
  · left; exact ⟨rfl, by omega⟩

/-- Storing a number that fits keeps it. -/
theorem toLane_toInt {v : Int} (h : -32768 ≤ v) (h' : v ≤ 32767) : (toLane v).toInt = v := by
  rw [toLane, BitVec.toInt_ofInt]
  exact Int.bmod_eq_of_le (by omega) (by omega)

@[simp] theorem toLane_s16 (v : Lane) : toLane (s16 v) = v := by
  simp [toLane, s16]

theorem s16_range (v : Lane) : -32768 ≤ s16 v ∧ s16 v ≤ 32767 := by
  have h1 := BitVec.le_toInt v
  have h2 := BitVec.toInt_lt (x := v)
  simp only [s16]
  omega

/-- `smdec` never yields -32768 (41_target_decoder.md R160). -/
theorem smdec_range (u : Lane) : -32767 ≤ smdec u ∧ smdec u ≤ 32767 := by
  have h := s16_range u
  simp only [smdec, smBias]
  split <;> omega

theorem clamp_byte (v : Int) : 0 ≤ clamp v 0 255 ∧ clamp v 0 255 ≤ 255 := by
  simp only [clamp]
  split
  · omega
  · split <;> omega

/-- The persisted byte of a bound as a number. -/
theorem encMm_toNat (v : Int) : ((encMm v).toNat : Int) = clamp (Int.tdiv v 100 + 128) 0 255 := by
  have h := clamp_byte (Int.tdiv v 100 + 128)
  simp only [encMm, cfgScale, cfgBias, BitVec.toNat_ofInt]
  omega

theorem decMm_eq (b : Byte) : decMm b = 100 * (b.toNat : Int) - 12800 := by
  simp only [decMm, cfgBias, cfgScale]; ring

theorem decMm_range (b : Byte) : -12800 ≤ decMm b ∧ decMm b ≤ 12700 := by
  have := b.isLt
  rw [decMm_eq]; omega

/-- A bound that is a multiple of 100 in the range of a byte survives `enc_mm` and `dec_mm`
(44_configuration.md R191, R198). -/
theorem decMm_encMm {v k : Int} (hk : v = 100 * k) (h : -12800 ≤ v) (h' : v ≤ 12700) :
    decMm (encMm v) = v := by
  have : Int.tdiv v 100 = k := by rw [hk]; exact Int.mul_tdiv_cancel_left k (by norm_num)
  rw [decMm_eq, encMm_toNat, this]
  simp only [clamp]
  split
  · omega
  · split <;> omega

@[simp] theorem encTimeout_toNat (d : Lane) : (encTimeout d).toNat = min d.toNat 255 := by
  simp only [encTimeout, BitVec.toNat_ofNat]
  omega

/-- `DEFAULT_TIMEOUT` lies in 1..255 (00_scope.md R10). -/
theorem defaultTimeout_ne_zero : Config.defaultTimeout ≠ 0 := by
  intro h
  have h1 : Config.defaultTimeout.toNat = 0 := congrArg BitVec.toNat h
  have h2 := Config.defaultTimeoutPred.isLt
  simp only [Config.defaultTimeout, BitVec.toNat_ofNat] at h1
  omega

/-- What validation can leave, all seven steps at once (44_configuration.md R192). -/
theorem validate_spec (t : Byte) (x1 x2 y1 y2 : Int) :
    let c := validate t x1 x2 y1 y2
    (t = 0 → c.tmo = Config.defaultTimeout) ∧ (t ≠ 0 → c.tmo = t)
    ∧ c.x1 = max (-6000) x1
    ∧ (min 6000 x2 ≤ c.x1 → c.x2 = 6000) ∧ (c.x1 < min 6000 x2 → c.x2 = min 6000 x2)
    ∧ c.y1 = max 0 y1
    ∧ (min 6000 y2 ≤ c.y1 → c.y2 = 6000) ∧ (c.y1 < min 6000 y2 → c.y2 = min 6000 y2) := by
  refine ⟨fun h => if_pos h, fun h => if_neg h, ?_⟩
  dsimp only [validate, xMin, xMax, yMin, yMax]
  refine ⟨?_, ?_, ?_, ?_, ?_, ?_⟩ <;> split_ifs <;> omega

end Sys2Proof.Machine
end

