-- ==== Sys2Proof/Laws/State.lean ====
section
/-! SUPPORT. One lemma per field of State per named update, so that no proof unfolds a record update. -/

namespace Sys2Proof.Machine

section
variable (s : State) (v : Vector Byte 4)
@[simp] theorem State.setW_w : (s.setW v).w = v := rfl
@[simp] theorem State.setW_buf : (s.setW v).buf = s.buf := rfl
@[simp] theorem State.setW_len : (s.setW v).len = s.len := rfl
@[simp] theorem State.setW_fstate : (s.setW v).fstate = s.fstate := rfl
@[simp] theorem State.setW_tgt : (s.setW v).tgt = s.tgt := rfl
@[simp] theorem State.setW_en : (s.setW v).en = s.en := rfl
@[simp] theorem State.setW_cnt : (s.setW v).cnt = s.cnt := rfl
@[simp] theorem State.setW_last : (s.setW v).last = s.last := rfl
@[simp] theorem State.setW_tmo : (s.setW v).tmo = s.tmo := rfl
@[simp] theorem State.setW_x1 : (s.setW v).x1 = s.x1 := rfl
@[simp] theorem State.setW_x2 : (s.setW v).x2 = s.x2 := rfl
@[simp] theorem State.setW_y1 : (s.setW v).y1 = s.y1 := rfl
@[simp] theorem State.setW_y2 : (s.setW v).y2 = s.y2 := rfl
@[simp] theorem State.setW_slot : (s.setW v).slot = s.slot := rfl
@[simp] theorem State.setW_now : (s.setW v).now = s.now := rfl
@[simp] theorem State.setW_inp : (s.setW v).inp = s.inp := rfl
@[simp] theorem State.setW_rsp : (s.setW v).rsp = s.rsp := rfl
@[simp] theorem State.setW_arb : (s.setW v).arb = s.arb := rfl
end

section
variable (s : State) (v : Memory)
@[simp] theorem State.setBuf_w : (s.setBuf v).w = s.w := rfl
@[simp] theorem State.setBuf_buf : (s.setBuf v).buf = v := rfl
@[simp] theorem State.setBuf_len : (s.setBuf v).len = s.len := rfl
@[simp] theorem State.setBuf_fstate : (s.setBuf v).fstate = s.fstate := rfl
@[simp] theorem State.setBuf_tgt : (s.setBuf v).tgt = s.tgt := rfl
@[simp] theorem State.setBuf_en : (s.setBuf v).en = s.en := rfl
@[simp] theorem State.setBuf_cnt : (s.setBuf v).cnt = s.cnt := rfl
@[simp] theorem State.setBuf_last : (s.setBuf v).last = s.last := rfl
@[simp] theorem State.setBuf_tmo : (s.setBuf v).tmo = s.tmo := rfl
@[simp] theorem State.setBuf_x1 : (s.setBuf v).x1 = s.x1 := rfl
@[simp] theorem State.setBuf_x2 : (s.setBuf v).x2 = s.x2 := rfl
@[simp] theorem State.setBuf_y1 : (s.setBuf v).y1 = s.y1 := rfl
@[simp] theorem State.setBuf_y2 : (s.setBuf v).y2 = s.y2 := rfl
@[simp] theorem State.setBuf_slot : (s.setBuf v).slot = s.slot := rfl
@[simp] theorem State.setBuf_now : (s.setBuf v).now = s.now := rfl
@[simp] theorem State.setBuf_inp : (s.setBuf v).inp = s.inp := rfl
@[simp] theorem State.setBuf_rsp : (s.setBuf v).rsp = s.rsp := rfl
@[simp] theorem State.setBuf_arb : (s.setBuf v).arb = s.arb := rfl
end

section
variable (s : State) (v : Fin 33)
@[simp] theorem State.setLen_w : (s.setLen v).w = s.w := rfl
@[simp] theorem State.setLen_buf : (s.setLen v).buf = s.buf := rfl
@[simp] theorem State.setLen_len : (s.setLen v).len = v := rfl
@[simp] theorem State.setLen_fstate : (s.setLen v).fstate = s.fstate := rfl
@[simp] theorem State.setLen_tgt : (s.setLen v).tgt = s.tgt := rfl
@[simp] theorem State.setLen_en : (s.setLen v).en = s.en := rfl
@[simp] theorem State.setLen_cnt : (s.setLen v).cnt = s.cnt := rfl
@[simp] theorem State.setLen_last : (s.setLen v).last = s.last := rfl
@[simp] theorem State.setLen_tmo : (s.setLen v).tmo = s.tmo := rfl
@[simp] theorem State.setLen_x1 : (s.setLen v).x1 = s.x1 := rfl
@[simp] theorem State.setLen_x2 : (s.setLen v).x2 = s.x2 := rfl
@[simp] theorem State.setLen_y1 : (s.setLen v).y1 = s.y1 := rfl
@[simp] theorem State.setLen_y2 : (s.setLen v).y2 = s.y2 := rfl
@[simp] theorem State.setLen_slot : (s.setLen v).slot = s.slot := rfl
@[simp] theorem State.setLen_now : (s.setLen v).now = s.now := rfl
@[simp] theorem State.setLen_inp : (s.setLen v).inp = s.inp := rfl
@[simp] theorem State.setLen_rsp : (s.setLen v).rsp = s.rsp := rfl
@[simp] theorem State.setLen_arb : (s.setLen v).arb = s.arb := rfl
end

section
variable (s : State) (v : FState)
@[simp] theorem State.setFstate_w : (s.setFstate v).w = s.w := rfl
@[simp] theorem State.setFstate_buf : (s.setFstate v).buf = s.buf := rfl
@[simp] theorem State.setFstate_len : (s.setFstate v).len = s.len := rfl
@[simp] theorem State.setFstate_fstate : (s.setFstate v).fstate = v := rfl
@[simp] theorem State.setFstate_tgt : (s.setFstate v).tgt = s.tgt := rfl
@[simp] theorem State.setFstate_en : (s.setFstate v).en = s.en := rfl
@[simp] theorem State.setFstate_cnt : (s.setFstate v).cnt = s.cnt := rfl
@[simp] theorem State.setFstate_last : (s.setFstate v).last = s.last := rfl
@[simp] theorem State.setFstate_tmo : (s.setFstate v).tmo = s.tmo := rfl
@[simp] theorem State.setFstate_x1 : (s.setFstate v).x1 = s.x1 := rfl
@[simp] theorem State.setFstate_x2 : (s.setFstate v).x2 = s.x2 := rfl
@[simp] theorem State.setFstate_y1 : (s.setFstate v).y1 = s.y1 := rfl
@[simp] theorem State.setFstate_y2 : (s.setFstate v).y2 = s.y2 := rfl
@[simp] theorem State.setFstate_slot : (s.setFstate v).slot = s.slot := rfl
@[simp] theorem State.setFstate_now : (s.setFstate v).now = s.now := rfl
@[simp] theorem State.setFstate_inp : (s.setFstate v).inp = s.inp := rfl
@[simp] theorem State.setFstate_rsp : (s.setFstate v).rsp = s.rsp := rfl
@[simp] theorem State.setFstate_arb : (s.setFstate v).arb = s.arb := rfl
end

section
variable (s : State) (v : Vector Target 3)
@[simp] theorem State.setTgt_w : (s.setTgt v).w = s.w := rfl
@[simp] theorem State.setTgt_buf : (s.setTgt v).buf = s.buf := rfl
@[simp] theorem State.setTgt_len : (s.setTgt v).len = s.len := rfl
@[simp] theorem State.setTgt_fstate : (s.setTgt v).fstate = s.fstate := rfl
@[simp] theorem State.setTgt_tgt : (s.setTgt v).tgt = v := rfl
@[simp] theorem State.setTgt_en : (s.setTgt v).en = s.en := rfl
@[simp] theorem State.setTgt_cnt : (s.setTgt v).cnt = s.cnt := rfl
@[simp] theorem State.setTgt_last : (s.setTgt v).last = s.last := rfl
@[simp] theorem State.setTgt_tmo : (s.setTgt v).tmo = s.tmo := rfl
@[simp] theorem State.setTgt_x1 : (s.setTgt v).x1 = s.x1 := rfl
@[simp] theorem State.setTgt_x2 : (s.setTgt v).x2 = s.x2 := rfl
@[simp] theorem State.setTgt_y1 : (s.setTgt v).y1 = s.y1 := rfl
@[simp] theorem State.setTgt_y2 : (s.setTgt v).y2 = s.y2 := rfl
@[simp] theorem State.setTgt_slot : (s.setTgt v).slot = s.slot := rfl
@[simp] theorem State.setTgt_now : (s.setTgt v).now = s.now := rfl
@[simp] theorem State.setTgt_inp : (s.setTgt v).inp = s.inp := rfl
@[simp] theorem State.setTgt_rsp : (s.setTgt v).rsp = s.rsp := rfl
@[simp] theorem State.setTgt_arb : (s.setTgt v).arb = s.arb := rfl
end

section
variable (s : State) (v : BitVec 2)
@[simp] theorem State.setCnt_w : (s.setCnt v).w = s.w := rfl
@[simp] theorem State.setCnt_buf : (s.setCnt v).buf = s.buf := rfl
@[simp] theorem State.setCnt_len : (s.setCnt v).len = s.len := rfl
@[simp] theorem State.setCnt_fstate : (s.setCnt v).fstate = s.fstate := rfl
@[simp] theorem State.setCnt_tgt : (s.setCnt v).tgt = s.tgt := rfl
@[simp] theorem State.setCnt_en : (s.setCnt v).en = s.en := rfl
@[simp] theorem State.setCnt_cnt : (s.setCnt v).cnt = v := rfl
@[simp] theorem State.setCnt_last : (s.setCnt v).last = s.last := rfl
@[simp] theorem State.setCnt_tmo : (s.setCnt v).tmo = s.tmo := rfl
@[simp] theorem State.setCnt_x1 : (s.setCnt v).x1 = s.x1 := rfl
@[simp] theorem State.setCnt_x2 : (s.setCnt v).x2 = s.x2 := rfl
@[simp] theorem State.setCnt_y1 : (s.setCnt v).y1 = s.y1 := rfl
@[simp] theorem State.setCnt_y2 : (s.setCnt v).y2 = s.y2 := rfl
@[simp] theorem State.setCnt_slot : (s.setCnt v).slot = s.slot := rfl
@[simp] theorem State.setCnt_now : (s.setCnt v).now = s.now := rfl
@[simp] theorem State.setCnt_inp : (s.setCnt v).inp = s.inp := rfl
@[simp] theorem State.setCnt_rsp : (s.setCnt v).rsp = s.rsp := rfl
@[simp] theorem State.setCnt_arb : (s.setCnt v).arb = s.arb := rfl
end

section
variable (s : State) (v : Time)
@[simp] theorem State.setLast_w : (s.setLast v).w = s.w := rfl
@[simp] theorem State.setLast_buf : (s.setLast v).buf = s.buf := rfl
@[simp] theorem State.setLast_len : (s.setLast v).len = s.len := rfl
@[simp] theorem State.setLast_fstate : (s.setLast v).fstate = s.fstate := rfl
@[simp] theorem State.setLast_tgt : (s.setLast v).tgt = s.tgt := rfl
@[simp] theorem State.setLast_en : (s.setLast v).en = s.en := rfl
@[simp] theorem State.setLast_cnt : (s.setLast v).cnt = s.cnt := rfl
@[simp] theorem State.setLast_last : (s.setLast v).last = v := rfl
@[simp] theorem State.setLast_tmo : (s.setLast v).tmo = s.tmo := rfl
@[simp] theorem State.setLast_x1 : (s.setLast v).x1 = s.x1 := rfl
@[simp] theorem State.setLast_x2 : (s.setLast v).x2 = s.x2 := rfl
@[simp] theorem State.setLast_y1 : (s.setLast v).y1 = s.y1 := rfl
@[simp] theorem State.setLast_y2 : (s.setLast v).y2 = s.y2 := rfl
@[simp] theorem State.setLast_slot : (s.setLast v).slot = s.slot := rfl
@[simp] theorem State.setLast_now : (s.setLast v).now = s.now := rfl
@[simp] theorem State.setLast_inp : (s.setLast v).inp = s.inp := rfl
@[simp] theorem State.setLast_rsp : (s.setLast v).rsp = s.rsp := rfl
@[simp] theorem State.setLast_arb : (s.setLast v).arb = s.arb := rfl
end

section
variable (s : State) (v : Vector Byte 5)
@[simp] theorem State.setSlot_w : (s.setSlot v).w = s.w := rfl
@[simp] theorem State.setSlot_buf : (s.setSlot v).buf = s.buf := rfl
@[simp] theorem State.setSlot_len : (s.setSlot v).len = s.len := rfl
@[simp] theorem State.setSlot_fstate : (s.setSlot v).fstate = s.fstate := rfl
@[simp] theorem State.setSlot_tgt : (s.setSlot v).tgt = s.tgt := rfl
@[simp] theorem State.setSlot_en : (s.setSlot v).en = s.en := rfl
@[simp] theorem State.setSlot_cnt : (s.setSlot v).cnt = s.cnt := rfl
@[simp] theorem State.setSlot_last : (s.setSlot v).last = s.last := rfl
@[simp] theorem State.setSlot_tmo : (s.setSlot v).tmo = s.tmo := rfl
@[simp] theorem State.setSlot_x1 : (s.setSlot v).x1 = s.x1 := rfl
@[simp] theorem State.setSlot_x2 : (s.setSlot v).x2 = s.x2 := rfl
@[simp] theorem State.setSlot_y1 : (s.setSlot v).y1 = s.y1 := rfl
@[simp] theorem State.setSlot_y2 : (s.setSlot v).y2 = s.y2 := rfl
@[simp] theorem State.setSlot_slot : (s.setSlot v).slot = v := rfl
@[simp] theorem State.setSlot_now : (s.setSlot v).now = s.now := rfl
@[simp] theorem State.setSlot_inp : (s.setSlot v).inp = s.inp := rfl
@[simp] theorem State.setSlot_rsp : (s.setSlot v).rsp = s.rsp := rfl
@[simp] theorem State.setSlot_arb : (s.setSlot v).arb = s.arb := rfl
end

section
variable (s : State) (v : Option Word72)
@[simp] theorem State.setRsp_w : (s.setRsp v).w = s.w := rfl
@[simp] theorem State.setRsp_buf : (s.setRsp v).buf = s.buf := rfl
@[simp] theorem State.setRsp_len : (s.setRsp v).len = s.len := rfl
@[simp] theorem State.setRsp_fstate : (s.setRsp v).fstate = s.fstate := rfl
@[simp] theorem State.setRsp_tgt : (s.setRsp v).tgt = s.tgt := rfl
@[simp] theorem State.setRsp_en : (s.setRsp v).en = s.en := rfl
@[simp] theorem State.setRsp_cnt : (s.setRsp v).cnt = s.cnt := rfl
@[simp] theorem State.setRsp_last : (s.setRsp v).last = s.last := rfl
@[simp] theorem State.setRsp_tmo : (s.setRsp v).tmo = s.tmo := rfl
@[simp] theorem State.setRsp_x1 : (s.setRsp v).x1 = s.x1 := rfl
@[simp] theorem State.setRsp_x2 : (s.setRsp v).x2 = s.x2 := rfl
@[simp] theorem State.setRsp_y1 : (s.setRsp v).y1 = s.y1 := rfl
@[simp] theorem State.setRsp_y2 : (s.setRsp v).y2 = s.y2 := rfl
@[simp] theorem State.setRsp_slot : (s.setRsp v).slot = s.slot := rfl
@[simp] theorem State.setRsp_now : (s.setRsp v).now = s.now := rfl
@[simp] theorem State.setRsp_inp : (s.setRsp v).inp = s.inp := rfl
@[simp] theorem State.setRsp_rsp : (s.setRsp v).rsp = v := rfl
@[simp] theorem State.setRsp_arb : (s.setRsp v).arb = s.arb := rfl
end

section
variable (s : State) (v : Time)
@[simp] theorem State.setNow_w : (s.setNow v).w = s.w := rfl
@[simp] theorem State.setNow_buf : (s.setNow v).buf = s.buf := rfl
@[simp] theorem State.setNow_len : (s.setNow v).len = s.len := rfl
@[simp] theorem State.setNow_fstate : (s.setNow v).fstate = s.fstate := rfl
@[simp] theorem State.setNow_tgt : (s.setNow v).tgt = s.tgt := rfl
@[simp] theorem State.setNow_en : (s.setNow v).en = s.en := rfl
@[simp] theorem State.setNow_cnt : (s.setNow v).cnt = s.cnt := rfl
@[simp] theorem State.setNow_last : (s.setNow v).last = s.last := rfl
@[simp] theorem State.setNow_tmo : (s.setNow v).tmo = s.tmo := rfl
@[simp] theorem State.setNow_x1 : (s.setNow v).x1 = s.x1 := rfl
@[simp] theorem State.setNow_x2 : (s.setNow v).x2 = s.x2 := rfl
@[simp] theorem State.setNow_y1 : (s.setNow v).y1 = s.y1 := rfl
@[simp] theorem State.setNow_y2 : (s.setNow v).y2 = s.y2 := rfl
@[simp] theorem State.setNow_slot : (s.setNow v).slot = s.slot := rfl
@[simp] theorem State.setNow_now : (s.setNow v).now = v := rfl
@[simp] theorem State.setNow_inp : (s.setNow v).inp = s.inp := rfl
@[simp] theorem State.setNow_rsp : (s.setNow v).rsp = s.rsp := rfl
@[simp] theorem State.setNow_arb : (s.setNow v).arb = s.arb := rfl
end

section
variable (s : State) (v : List Input)
@[simp] theorem State.setInp_w : (s.setInp v).w = s.w := rfl
@[simp] theorem State.setInp_buf : (s.setInp v).buf = s.buf := rfl
@[simp] theorem State.setInp_len : (s.setInp v).len = s.len := rfl
@[simp] theorem State.setInp_fstate : (s.setInp v).fstate = s.fstate := rfl
@[simp] theorem State.setInp_tgt : (s.setInp v).tgt = s.tgt := rfl
@[simp] theorem State.setInp_en : (s.setInp v).en = s.en := rfl
@[simp] theorem State.setInp_cnt : (s.setInp v).cnt = s.cnt := rfl
@[simp] theorem State.setInp_last : (s.setInp v).last = s.last := rfl
@[simp] theorem State.setInp_tmo : (s.setInp v).tmo = s.tmo := rfl
@[simp] theorem State.setInp_x1 : (s.setInp v).x1 = s.x1 := rfl
@[simp] theorem State.setInp_x2 : (s.setInp v).x2 = s.x2 := rfl
@[simp] theorem State.setInp_y1 : (s.setInp v).y1 = s.y1 := rfl
@[simp] theorem State.setInp_y2 : (s.setInp v).y2 = s.y2 := rfl
@[simp] theorem State.setInp_slot : (s.setInp v).slot = s.slot := rfl
@[simp] theorem State.setInp_now : (s.setInp v).now = s.now := rfl
@[simp] theorem State.setInp_inp : (s.setInp v).inp = v := rfl
@[simp] theorem State.setInp_rsp : (s.setInp v).rsp = s.rsp := rfl
@[simp] theorem State.setInp_arb : (s.setInp v).arb = s.arb := rfl
end

section
variable (s : State) (v : Nat)
@[simp] theorem State.setArb_w : (s.setArb v).w = s.w := rfl
@[simp] theorem State.setArb_buf : (s.setArb v).buf = s.buf := rfl
@[simp] theorem State.setArb_len : (s.setArb v).len = s.len := rfl
@[simp] theorem State.setArb_fstate : (s.setArb v).fstate = s.fstate := rfl
@[simp] theorem State.setArb_tgt : (s.setArb v).tgt = s.tgt := rfl
@[simp] theorem State.setArb_en : (s.setArb v).en = s.en := rfl
@[simp] theorem State.setArb_cnt : (s.setArb v).cnt = s.cnt := rfl
@[simp] theorem State.setArb_last : (s.setArb v).last = s.last := rfl
@[simp] theorem State.setArb_tmo : (s.setArb v).tmo = s.tmo := rfl
@[simp] theorem State.setArb_x1 : (s.setArb v).x1 = s.x1 := rfl
@[simp] theorem State.setArb_x2 : (s.setArb v).x2 = s.x2 := rfl
@[simp] theorem State.setArb_y1 : (s.setArb v).y1 = s.y1 := rfl
@[simp] theorem State.setArb_y2 : (s.setArb v).y2 = s.y2 := rfl
@[simp] theorem State.setArb_slot : (s.setArb v).slot = s.slot := rfl
@[simp] theorem State.setArb_now : (s.setArb v).now = s.now := rfl
@[simp] theorem State.setArb_inp : (s.setArb v).inp = s.inp := rfl
@[simp] theorem State.setArb_rsp : (s.setArb v).rsp = s.rsp := rfl
@[simp] theorem State.setArb_arb : (s.setArb v).arb = v := rfl
end

section
variable (s : State) (t : Byte) (a b c d : Lane)
@[simp] theorem State.setConfig_w : (s.setConfig t a b c d).w = s.w := rfl
@[simp] theorem State.setConfig_buf : (s.setConfig t a b c d).buf = s.buf := rfl
@[simp] theorem State.setConfig_len : (s.setConfig t a b c d).len = s.len := rfl
@[simp] theorem State.setConfig_fstate : (s.setConfig t a b c d).fstate = s.fstate := rfl
@[simp] theorem State.setConfig_tgt : (s.setConfig t a b c d).tgt = s.tgt := rfl
@[simp] theorem State.setConfig_en : (s.setConfig t a b c d).en = s.en := rfl
@[simp] theorem State.setConfig_cnt : (s.setConfig t a b c d).cnt = s.cnt := rfl
@[simp] theorem State.setConfig_last : (s.setConfig t a b c d).last = s.last := rfl
@[simp] theorem State.setConfig_tmo : (s.setConfig t a b c d).tmo = t := rfl
@[simp] theorem State.setConfig_x1 : (s.setConfig t a b c d).x1 = a := rfl
@[simp] theorem State.setConfig_x2 : (s.setConfig t a b c d).x2 = b := rfl
@[simp] theorem State.setConfig_y1 : (s.setConfig t a b c d).y1 = c := rfl
@[simp] theorem State.setConfig_y2 : (s.setConfig t a b c d).y2 = d := rfl
@[simp] theorem State.setConfig_slot : (s.setConfig t a b c d).slot = s.slot := rfl
@[simp] theorem State.setConfig_now : (s.setConfig t a b c d).now = s.now := rfl
@[simp] theorem State.setConfig_inp : (s.setConfig t a b c d).inp = s.inp := rfl
@[simp] theorem State.setConfig_rsp : (s.setConfig t a b c d).rsp = s.rsp := rfl
@[simp] theorem State.setConfig_arb : (s.setConfig t a b c d).arb = s.arb := rfl
end

end Sys2Proof.Machine
end

