-- ==== Sys2Proof/Laws/Word.lean ====
section
/-! SUPPORT. The fields of a HOST word and of a response word, read back from the word they were put
together in (30_encoding.md R91, R92). -/

namespace Sys2Proof

theorem mul_or_eq_add (x y k : Nat) (h : y < 2 ^ k) : x * 2 ^ k ||| y = x * 2 ^ k + y := by
  rw [← Nat.shiftLeft_eq, Nat.shiftLeft_add_eq_or_of_lt h]

/-- A HOST word as a number. -/
theorem hostWord_toNat (t : Byte) (a b c d : Lane) :
    (hostWord t a b c d).toNat
      = (((t.toNat * 2 ^ 16 + a.toNat) * 2 ^ 16 + b.toNat) * 2 ^ 16 + c.toNat) * 2 ^ 16
        + d.toNat := by
  show (t ++ a ++ b ++ c ++ d).toNat = _
  simp only [BitVec.toNat_append, Nat.shiftLeft_eq]
  rw [mul_or_eq_add _ _ _ a.isLt, mul_or_eq_add _ _ _ b.isLt, mul_or_eq_add _ _ _ c.isLt,
    mul_or_eq_add _ _ _ d.isLt]

/-- The fields of any HOST word as numbers. -/
theorem fields_toNat (w : Word72) :
    (topByte w).toNat = w.toNat / 2 ^ 64 ∧ (laneA w).toNat = w.toNat / 2 ^ 48 % 2 ^ 16
      ∧ (laneB w).toNat = w.toNat / 2 ^ 32 % 2 ^ 16 ∧ (laneC w).toNat = w.toNat / 2 ^ 16 % 2 ^ 16
      ∧ (laneD w).toNat = w.toNat % 2 ^ 16 := by
  have := w.isLt
  simp only [topByte, laneA, laneB, laneC, laneD, BitVec.extractLsb'_toNat,
    Nat.shiftRight_eq_div_pow]
  exact ⟨by omega, trivial, trivial, trivial, by omega⟩

@[simp] theorem topByte_hostWord (t : Byte) (a b c d : Lane) : topByte (hostWord t a b c d) = t := by
  apply BitVec.eq_of_toNat_eq
  rw [(fields_toNat _).1, hostWord_toNat]
  have := a.isLt; have := b.isLt; have := c.isLt; have := d.isLt
  omega

@[simp] theorem laneA_hostWord (t : Byte) (a b c d : Lane) : laneA (hostWord t a b c d) = a := by
  apply BitVec.eq_of_toNat_eq
  rw [(fields_toNat _).2.1, hostWord_toNat]
  have := a.isLt; have := b.isLt; have := c.isLt; have := d.isLt
  omega

@[simp] theorem laneB_hostWord (t : Byte) (a b c d : Lane) : laneB (hostWord t a b c d) = b := by
  apply BitVec.eq_of_toNat_eq
  rw [(fields_toNat _).2.2.1, hostWord_toNat]
  have := b.isLt; have := c.isLt; have := d.isLt
  omega

@[simp] theorem laneC_hostWord (t : Byte) (a b c d : Lane) : laneC (hostWord t a b c d) = c := by
  apply BitVec.eq_of_toNat_eq
  rw [(fields_toNat _).2.2.2.1, hostWord_toNat]
  have := c.isLt; have := d.isLt
  omega

@[simp] theorem laneD_hostWord (t : Byte) (a b c d : Lane) : laneD (hostWord t a b c d) = d := by
  apply BitVec.eq_of_toNat_eq
  rw [(fields_toNat _).2.2.2.2, hostWord_toNat]
  have := d.isLt
  omega

/-- A HOST word is the word of its fields. -/
theorem hostWord_fields (w : Word72) :
    hostWord (topByte w) (laneA w) (laneB w) (laneC w) (laneD w) = w := by
  apply BitVec.eq_of_toNat_eq
  obtain ⟨h1, h2, h3, h4, h5⟩ := fields_toNat w
  rw [hostWord_toNat, h1, h2, h3, h4, h5]
  have := w.isLt
  omega

/-- Words with the same fields are the same word. -/
theorem word_ext {v w : Word72} (h : topByte v = topByte w) (ha : laneA v = laneA w)
    (hb : laneB v = laneB w) (hc : laneC v = laneC w) (hd : laneD v = laneD w) : v = w := by
  rw [← hostWord_fields v, ← hostWord_fields w, h, ha, hb, hc, hd]

@[simp] theorem laneLow_toNat (v : Lane) : (laneLow v).toNat = v.toNat % 256 := by
  simp [laneLow, BitVec.extractLsb'_toNat]

@[simp] theorem laneLow_setWidth (b : Byte) : laneLow (b.setWidth 16) = b := by
  apply BitVec.eq_of_toNat_eq
  have := b.isLt
  simp only [laneLow_toNat, BitVec.toNat_setWidth]
  omega

namespace Machine

@[simp] theorem statusByte_toNat (i o z : Bool) :
    (statusByte i o z).toNat = 128 * i.toNat + 2 * o.toNat + z.toNat := by
  cases i <;> cases o <;> cases z <;> rfl

@[simp] theorem topByte_rsp (r : Rsp) : topByte r.word = statusByte r.ill r.st1 r.st0 := by
  simp [Rsp.word]
@[simp] theorem laneA_rsp (r : Rsp) : laneA r.word = r.a := by simp [Rsp.word]
@[simp] theorem laneB_rsp (r : Rsp) : laneB r.word = r.b := by simp [Rsp.word]
@[simp] theorem laneC_rsp (r : Rsp) : laneC r.word = r.c := by simp [Rsp.word]
@[simp] theorem laneD_rsp (r : Rsp) : laneD r.word = r.d := by simp [Rsp.word]

end Machine
end Sys2Proof
end

