-- ==== Sys2Proof/Laws/Ops.lean ====
section
/-! SUPPORT. For each shared operation, once, everything it can do. -/

namespace Sys2Proof.Machine
open Sys2Proof.Safety

/-! ### Answers -/

theorem answer_eq (r : Rsp) (s : State) : answer r s = { s with rsp := some r.word } := rfl

theorem noAnswer_eq (s : State) : noAnswer s = { s with rsp := none } := rfl

theorem emptyRsp_word : ({} : Rsp).word = 0 := by decide

theorem illRsp_word : ({ ill := true } : Rsp).word = illWord := by decide

theorem answer_empty (s : State) : answer {} s = { s with rsp := some 0 } := by
  rw [answer_eq, emptyRsp_word]

theorem refuseIll_eq (s : State) : refuseIll s = { s with rsp := some illWord } := by
  rw [refuseIll, answer_eq, illRsp_word]

/-- The fields of an answered word, as numbers. -/
theorem rsp_hasFields (r : Rsp) :
    HasFields r.word (128 * r.ill.toNat + 2 * r.st1.toNat + r.st0.toNat)
      r.a.toNat r.b.toNat r.c.toNat r.d.toNat := by
  simp [HasFields]

/-! ### Configuration Store -/

theorem millimetres_eq (b : Byte) : millimetres b = decMm b := (decMm_eq b).symm

/-- The five numbers that a slot loads to (44_configuration.md R192). -/
theorem loadSlot_spec (v : Vector Byte 5) :
    (v[0] = 0 → (loadSlot v).tmo = Config.defaultTimeout) ∧ (v[0] ≠ 0 → (loadSlot v).tmo = v[0])
    ∧ (loadSlot v).x1 = max (-6000) (millimetres v[1])
    ∧ (min 6000 (millimetres v[2]) ≤ (loadSlot v).x1 → (loadSlot v).x2 = 6000)
    ∧ ((loadSlot v).x1 < min 6000 (millimetres v[2]) →
        (loadSlot v).x2 = min 6000 (millimetres v[2]))
    ∧ (loadSlot v).y1 = max 0 (millimetres v[3])
    ∧ (min 6000 (millimetres v[4]) ≤ (loadSlot v).y1 → (loadSlot v).y2 = 6000)
    ∧ ((loadSlot v).y1 < min 6000 (millimetres v[4]) →
        (loadSlot v).y2 = min 6000 (millimetres v[4])) := by
  simp only [millimetres_eq]
  exact validate_spec v[0] (decMm v[1]) (decMm v[2]) (decMm v[3]) (decMm v[4])

theorem millimetres_range (b : Byte) : -12800 ≤ millimetres b ∧ millimetres b ≤ 12700 := by
  rw [millimetres_eq]; exact decMm_range b

/-- `cfgload` writes the five working registers and nothing else. -/
theorem cfgload_frame (s : State) :
    cfgload s = { s with
      tmo := (cfgload s).tmo, x1 := (cfgload s).x1, x2 := (cfgload s).x2,
      y1 := (cfgload s).y1, y2 := (cfgload s).y2 } := rfl

@[simp] theorem cfgload_slot (s : State) : (cfgload s).slot = s.slot := rfl

/-- The bounds that `cfgload` stores fit their registers (44_configuration.md R198). -/
theorem cfgload_toInt (s : State) :
    (cfgload s).x1.toInt = (loadSlot s.slot).x1 ∧ (cfgload s).x2.toInt = (loadSlot s.slot).x2
    ∧ (cfgload s).y1.toInt = (loadSlot s.slot).y1 ∧ (cfgload s).y2.toInt = (loadSlot s.slot).y2 := by
  obtain ⟨-, -, h1, h2, h2', h3, h4, h4'⟩ := loadSlot_spec s.slot
  have b1 := millimetres_range s.slot[1]
  have b2 := millimetres_range s.slot[2]
  have b3 := millimetres_range s.slot[3]
  have b4 := millimetres_range s.slot[4]
  exact ⟨toLane_toInt (by omega) (by omega), toLane_toInt (by omega) (by omega),
    toLane_toInt (by omega) (by omega), toLane_toInt (by omega) (by omega)⟩

/-- After `cfgload` the working registers are the loaded slot. -/
theorem cfgload_loaded (s : State) : LoadedFromSlot (cfgload s) := by
  obtain ⟨e1, e2, e3, e4⟩ := cfgload_toInt s
  rw [LoadedFromSlot, cfgload_slot, e1, e2, e3, e4]
  exact loadSlot_spec s.slot

/-- The saved byte of a bound is the one the rule asks for (44_configuration.md R191). -/
theorem encMm_persists (v : Int) : PersistsBound (encMm v) v := by
  rw [PersistsBound, encMm_toNat]
  simp only [clamp]
  split
  · omega
  · split <;> omega

/-- A set operation writes the slot, loads it, answers the all-zero word, and does nothing else. -/
theorem persist_frame (v : Vector Byte 5) (s : State) :
    persist v s = { s with
      tmo := (persist v s).tmo, x1 := (persist v s).x1, x2 := (persist v s).x2,
      y1 := (persist v s).y1, y2 := (persist v s).y2, slot := v, rsp := some 0 } := by
  simp only [persist, answer_empty]
  rfl

theorem persist_loaded (v : Vector Byte 5) (s : State) : LoadedFromSlot (persist v s) :=
  cfgload_loaded (s.setSlot v)

/-- The registers after a set operation come from the written slot alone. -/
theorem persist_config (v : Vector Byte 5) (s : State) :
    (persist v s).tmo = (loadSlot v).tmo
    ∧ (persist v s).x1 = toLane (loadSlot v).x1 ∧ (persist v s).x2 = toLane (loadSlot v).x2
    ∧ (persist v s).y1 = toLane (loadSlot v).y1 ∧ (persist v s).y2 = toLane (loadSlot v).y2 :=
  ⟨rfl, rfl, rfl, rfl, rfl⟩

theorem persist_ignores_slot (v u : Vector Byte 5) (s : State) :
    persist v { s with slot := u } = persist v s := rfl

/-- A loaded axis is sound: `lo` is the minimum of the lower bound. -/
theorem axis_of_load {lo : Int} {a b : Lane} {p q : Byte} (hlo : lo = -6000 ∨ lo = 0)
    (ha : a.toInt = max lo (millimetres p))
    (hb : min 6000 (millimetres q) ≤ a.toInt → b.toInt = 6000)
    (hb' : a.toInt < min 6000 (millimetres q) → b.toInt = min 6000 (millimetres q)) :
    AxisSound lo a b := by
  have hp := p.isLt
  have hq := q.isLt
  simp only [millimetres] at ha hb hb'
  refine ⟨?_, ?_, by omega⟩
  · by_cases h : 100 * (p.toNat : Int) - 12800 ≤ lo
    · rcases hlo with rfl | rfl
      · exact ⟨-60, by omega⟩
      · exact ⟨0, by omega⟩
    · exact ⟨(p.toNat : Int) - 128, by omega⟩
  · by_cases h : b.toInt = 6000
    · exact ⟨60, by omega⟩
    · exact ⟨(q.toNat : Int) - 128, by omega⟩

/-- What a load leaves is sound (10_state.md R34). -/
theorem configSound_of_loaded {s : State} (h : LoadedFromSlot s) : ConfigSound s := by
  obtain ⟨h0, h0', h1, h2, h2', h3, h4, h4'⟩ := h
  refine ⟨?_, axis_of_load (.inl rfl) h1 h2 h2', axis_of_load (.inr rfl) h3 h4 h4'⟩
  by_cases h : s.slot[0] = 0
  · rw [h0 h]; exact defaultTimeout_ne_zero
  · rw [h0' h]; exact h

/-- Saving a sound bound is exact (44_configuration.md R198). -/
theorem millimetres_encMm {v : Lane} (hk : ∃ k : Int, v.toInt = 100 * k) (h : -12800 ≤ v.toInt)
    (h' : v.toInt ≤ 12700) : millimetres (encMm (s16 v)) = v.toInt := by
  obtain ⟨k, hk⟩ := hk
  rw [millimetres_eq]
  exact decMm_encMm hk h h'

/-- Saving sound registers is exact, all four bounds (44_configuration.md R195, R198). -/
theorem configSound_saves {s : State} (h : ConfigSound s) :
    millimetres (encMm (s16 s.x1)) = s.x1.toInt ∧ millimetres (encMm (s16 s.x2)) = s.x2.toInt
    ∧ millimetres (encMm (s16 s.y1)) = s.y1.toInt
    ∧ millimetres (encMm (s16 s.y2)) = s.y2.toInt := by
  obtain ⟨-, ⟨a1, a2, a3, a4, a5, a6, -⟩, ⟨b1, b2, b3, b4, b5, b6, -⟩⟩ := h
  exact ⟨millimetres_encMm a1 (by omega) (by omega), millimetres_encMm a2 (by omega) (by omega),
    millimetres_encMm b1 (by omega) (by omega), millimetres_encMm b2 (by omega) (by omega)⟩

/-- Saving sound bounds and loading them gives the bounds back (44_configuration.md R198). -/
theorem loadSlot_saveBytes {s : State} (h : ConfigSound s) (t : Byte) :
    let c := loadSlot (saveBytes t (s16 s.x1) (s16 s.x2) (s16 s.y1) (s16 s.y2))
    toLane c.x1 = s.x1 ∧ toLane c.x2 = s.x2 ∧ toLane c.y1 = s.y1 ∧ toLane c.y2 = s.y2 := by
  intro c
  obtain ⟨s1, s2, s3, s4⟩ := configSound_saves h
  obtain ⟨-, ⟨-, -, a3, a4, a5, a6, a7, a8⟩, ⟨-, -, b3, b4, b5, b6, b7, b8⟩⟩ := h
  obtain ⟨-, -, h1, h2, h2', h3, h4, h4'⟩ :=
    loadSlot_spec (saveBytes t (s16 s.x1) (s16 s.x2) (s16 s.y1) (s16 s.y2))
  have key : ∀ {v : Int} {r : Lane}, v = r.toInt → toLane v = r := by
    rintro v r rfl; exact toLane_s16 r
  simp only [saveBytes, Vector.getElem_mk, List.getElem_toArray, List.getElem_cons_zero,
    List.getElem_cons_succ, s1, s2, s3, s4] at h1 h2 h2' h3 h4 h4'
  exact ⟨key (by simp only [c, saveBytes]; omega), key (by simp only [c, saveBytes]; omega),
    key (by simp only [c, saveBytes]; omega), key (by simp only [c, saveBytes]; omega)⟩

/-! ### Presence -/

/-- PRES over numbers (43_presence_debouncer.md R182, R184): stamped, and `now` before the end of the
timeout; the operand 0 takes `TMO`. -/
theorem presFlag_iff (s : State) (d : Lane) :
    presFlag s d = true ↔ s.last.toNat ≠ 0
      ∧ s.now.toNat < s.last.toNat + (if d.toNat = 0 then s.tmo.toNat else d.toNat) := by
  have hl : s.last ≠ 0 ↔ s.last.toNat ≠ 0 := by
    rw [ne_eq, ← BitVec.toNat_inj]; rfl
  have hd : d = 0 ↔ d.toNat = 0 := by rw [← BitVec.toNat_inj]; rfl
  have hq : queryTimeout s d = (if d.toNat = 0 then s.tmo.toNat else d.toNat) := by
    unfold queryTimeout
    by_cases h : d = 0
    · rw [if_pos h, if_pos (hd.mp h)]
    · rw [if_neg h, if_neg fun hc => h (hd.mpr hc)]
  rw [presFlag, Bool.and_eq_true, decide_eq_true_iff, decide_eq_true_iff, hl, hq]

/-! ### Reset -/

theorem loadSlot_zero :
    loadSlot #v[0, 0, 0, 0, 0] = ⟨Config.defaultTimeout, -6000, 6000, 0, 6000⟩ := by
  have hz : decMm (0 : Byte) = -12800 := by decide
  show validate 0 (decMm 0) (decMm 0) (decMm 0) (decMm 0) = _
  rw [hz]
  rfl

/-- The reset input, from any state, gives the registers of `State.reset` with the strap in `EN`. -/
theorem resetBlock_eq (v : Bool) (s : State) :
    resetBlock v s
      = { State.reset with en := v, now := s.now, inp := s.inp, arb := s.arb } := by
  simp only [resetBlock, cfgload, loadSlot_zero]
  rfl

/-! ### Taking an input -/

theorem takeInput_rx {s : State} {b : Byte} {t : Time} {rest : List Input}
    (h : s.inp = .rx b t :: rest) :
    takeInput s = (.word (.rx b), { s with inp := rest, now := t }) := by
  simp only [takeInput, h]; rfl

theorem takeInput_host {s : State} {w : Word72} {t : Time} {rest : List Input}
    (h : s.inp = .host w t :: rest) :
    takeInput s = (.word (.host w), { s with inp := rest, now := t }) := by
  simp only [takeInput, h]; rfl

theorem takeInput_reset {s : State} {v : Bool} {rest : List Input}
    (h : s.inp = .reset v :: rest) : takeInput s = (.reset v, { s with inp := rest }) := by
  simp only [takeInput, h]; rfl

theorem takeInput_nil {s : State} (h : s.inp = []) : takeInput s = (.idle, s) := by
  simp only [takeInput, h]

/-- `serialise` changes nothing unless a coincident arrival is the oldest input. -/
theorem serialise_of_not_both {s : State} (h : ∀ b w t rest, s.inp ≠ .both b w t :: rest) :
    serialise s = s := by
  unfold serialise
  split
  · rename_i heq
    exact absurd heq (h _ _ _ _)
  · rfl

/-- A coincident arrival becomes the two operations in one of the two orders. -/
theorem serialise_both {s : State} {b : Byte} {w : Word72} {t : Time} {rest : List Input}
    (h : s.inp = .both b w t :: rest) :
    serialise s = { s with inp := .rx b t :: .host w t :: rest, arb := s.arb + 1 }
    ∨ serialise s = { s with inp := .host w t :: .rx b t :: rest, arb := s.arb + 1 } := by
  simp only [serialise, h]
  by_cases hf : Config.rxFirst s.arb = true
  · left; simp only [hf, if_true]; rfl
  · right; simp only [hf]; rfl

/-- A step changes the waiting inputs, the sampled time and the arbiter's counter, and then is idle,
resets the block, runs the operation a word decodes to, or refuses a reserved opcode. -/
theorem step_cases (s : State) :
    ∃ u : State, u = { s with inp := u.inp, now := u.now, arb := u.arb }
      ∧ (step s = .next u ∨ (∃ v, step s = .next (resetBlock v u))
        ∨ (∃ i, step s = exec i u) ∨ step s = .next (refuseIll u)) := by
  have hs : ∃ r a, serialise s = { s with inp := r, arb := a } := by
    unfold serialise
    split
    · exact ⟨_, _, rfl⟩
    · exact ⟨s.inp, s.arb, rfl⟩
  obtain ⟨r, a, hs⟩ := hs
  have run : ∀ (p : PortWord) (u : State),
      (∃ i, runTask (.word p) u = exec i u) ∨ runTask (.word p) u = .next (refuseIll u) := by
    intro p u
    simp only [runTask]
    cases decode p with
    | ok i => exact .inl ⟨i, rfl⟩
    | error e => exact .inr rfl
  simp only [step, hs]
  unfold takeInput
  split
  · exact ⟨_, rfl, .inr (.inr (run _ _))⟩
  · exact ⟨_, rfl, .inr (.inr (run _ _))⟩
  · exact ⟨_, rfl, .inr (.inl ⟨_, rfl⟩)⟩
  · exact ⟨_, rfl, .inl rfl⟩
  · exact ⟨_, rfl, .inl rfl⟩

end Sys2Proof.Machine
end

