-- ==== Sys2Proof/Laws/PerInstr.lean ====
section
/-! SUPPORT. A statement about every operation as syntax: which word format and which opcode encode it
(30_encoding.md R90, R91, R100). One lemma per constructor. -/

namespace Sys2Proof.Laws

/-- The column "op" of the operation map (30_encoding.md R100); the RX port carries no opcode. -/
def tableOpcode : Instr → Option Byte
  | .rxb _ => none
  | .nop => some 0x00
  | .qpres _ => some 0x01
  | .rdstat => some 0x02
  | .rdwin => some 0x03
  | .rdbuf _ => some 0x04
  | .rdtgt _ => some 0x05
  | .rdlast => some 0x06
  | .rdcfg => some 0x07
  | .rdtmo => some 0x08
  | .sett _ => some 0x09
  | .setd _ _ => some 0x0A
  | .setz _ _ _ _ => some 0x0B
  | .zdef => some 0x0C
  | .cfgld => some 0x0D
  | .cfgsv => some 0x0E
  | .slotw _ _ => some 0x0F
  | .slotr _ => some 0x10

/-- The operation is encoded for the port and with the opcode that R100 gives it. -/
def EncodesTableOpcode.Statement (i : Instr) : Prop :=
  match encode i with
  | .rx _ => tableOpcode i = none
  | .host w => tableOpcode i = some (topByte w)

namespace EncodesTableOpcode

theorem rxb (b : Byte) : Statement (.rxb b) := rfl
theorem nop : Statement .nop := congrArg some (topByte_hostWord ..).symm
theorem qpres (d : Lane) : Statement (.qpres d) := congrArg some (topByte_hostWord ..).symm
theorem rdstat : Statement .rdstat := congrArg some (topByte_hostWord ..).symm
theorem rdwin : Statement .rdwin := congrArg some (topByte_hostWord ..).symm
theorem rdbuf (d : Lane) : Statement (.rdbuf d) := congrArg some (topByte_hostWord ..).symm
theorem rdtgt (d : Lane) : Statement (.rdtgt d) := congrArg some (topByte_hostWord ..).symm
theorem rdlast : Statement .rdlast := congrArg some (topByte_hostWord ..).symm
theorem rdcfg : Statement .rdcfg := congrArg some (topByte_hostWord ..).symm
theorem rdtmo : Statement .rdtmo := congrArg some (topByte_hostWord ..).symm
theorem sett (d : Lane) : Statement (.sett d) := congrArg some (topByte_hostWord ..).symm
theorem setd (c d : Lane) : Statement (.setd c d) := congrArg some (topByte_hostWord ..).symm
theorem setz (a b c d : Lane) : Statement (.setz a b c d) :=
  congrArg some (topByte_hostWord ..).symm
theorem zdef : Statement .zdef := congrArg some (topByte_hostWord ..).symm
theorem cfgld : Statement .cfgld := congrArg some (topByte_hostWord ..).symm
theorem cfgsv : Statement .cfgsv := congrArg some (topByte_hostWord ..).symm
theorem slotw (c : Lane) (d : Byte) : Statement (.slotw c d) :=
  congrArg some (topByte_hostWord ..).symm
theorem slotr (c : Lane) : Statement (.slotr c) := congrArg some (topByte_hostWord ..).symm

end EncodesTableOpcode

end Sys2Proof.Laws
end

