-- ==== Sys2Proof/Laws/Rx.lean ====
section
/-! SUPPORT. What each sub-step of `RXB` does (40_frame_assembler.md, 41_target_decoder.md,
42_zone_classifier.md, 43_presence_debouncer.md). -/

namespace Sys2Proof.Machine
open Sys2Proof.Safety

/-! ### Push, append, tests -/

theorem windowPush_eq (b : Byte) (s : State) :
    windowPush b s = { s with w := #v[s.w[1], s.w[2], s.w[3], b] } := rfl

/-- Append: one byte and `LEN`, or nothing at `LEN = 32`; nothing else. -/
theorem appendByte_spec (b : Byte) (s : State) :
    appendByte b s = { s with buf := (appendByte b s).buf, len := (appendByte b s).len }
    ∧ (appendByte b s).len.val = min (s.len.val + 1) 32
    ∧ ∀ a, (appendByte b s).buf.read a = (if a = s.len.val ∧ a < 32 then b else s.buf.read a) := by
  have hl := s.len.isLt
  unfold appendByte
  split
  · rename_i h
    refine ⟨rfl, ?_, fun a => ?_⟩
    · show s.len.val + 1 = min (s.len.val + 1) 32
      omega
    · show (memWrite s.buf s.len.val 1 b.toNat).read a = _
      rw [memWrite_one, Memory.read_write]
      by_cases ha : a = s.len.val
      · rw [if_pos ha, if_pos ⟨ha, by omega⟩]
      · rw [if_neg ha, if_neg fun hc => ha hc.1]
  · rename_i h
    refine ⟨rfl, by omega, fun a => ?_⟩
    rw [if_neg (by omega)]

/-- Append keeps the canonical form. -/
theorem appendByte_wf {b : Byte} {s : State} (h : s.buf.wf) : (appendByte b s).buf.wf := by
  unfold appendByte
  split
  · rename_i hl
    show (memWrite s.buf s.len.val 1 b.toNat).wf
    rw [memWrite_one]
    exact Memory.wf_write b h hl
  · exact h

theorem headerSeen_iff (s : State) :
    headerSeen s = true ↔ s.w[0] = 0xAA ∧ s.w[1] = 0xFF ∧ s.w[2] = 0x03 ∧ s.w[3] = 0x00 := by
  simp only [headerSeen, Bool.and_eq_true, decide_eq_true_eq, and_assoc]
  rfl

theorem footerSeen_iff (s : State) :
    footerSeen s = true ↔ s.len.val = 30 ∧ s.w[2] = 0x55 ∧ s.w[3] = 0xCC := by
  simp only [footerSeen, Bool.and_eq_true, decide_eq_true_eq, and_assoc]
  rfl

/-- After push and append the header test asks for the header in the last three bytes and this one. -/
theorem headerSeen_received (b : Byte) (s : State) :
    headerSeen (appendByte b (windowPush b s)) = true ↔ CompletesHeader s b := by
  rw [headerSeen_iff, (appendByte_spec b (windowPush b s)).1]
  rfl

/-- After push and append the footer test asks for `LEN = 29` before, and the footer in the last byte
and this one. -/
theorem footerSeen_received (b : Byte) (s : State) :
    footerSeen (appendByte b (windowPush b s)) = true ↔ CompletesFrame s b := by
  have h := appendByte_spec b (windowPush b s)
  have hl : (appendByte b (windowPush b s)).len.val = min (s.len.val + 1) 32 := h.2.1
  rw [footerSeen_iff, hl, h.1]
  show min (s.len.val + 1) 32 = 30 ∧ s.w[3] = 0x55 ∧ b = 0xCC ↔ _
  rw [CompletesFrame]
  have : min (s.len.val + 1) 32 = 30 ↔ s.len.val = 29 := by omega
  rw [this]

/-- A byte never completes a header and a frame at once (40_frame_assembler.md R135). -/
theorem not_header_of_frame {s : State} {b : Byte} (h : CompletesFrame s b) :
    ¬ CompletesHeader s b := by
  rintro ⟨-, -, -, hb⟩
  rw [h.2.2] at hb
  exact absurd hb (by decide)

/-! ### Header -/

/-- A header match: label, length and the first four bytes; nothing else. -/
theorem takeHeader_spec (s : State) :
    takeHeader s = { s with buf := (takeHeader s).buf, len := 4, fstate := .accumulating }
    ∧ (takeHeader s).buf.read 0 = 0xAA ∧ (takeHeader s).buf.read 1 = 0xFF
    ∧ (takeHeader s).buf.read 2 = 0x03 ∧ (takeHeader s).buf.read 3 = 0x00
    ∧ ∀ a, 4 ≤ a → (takeHeader s).buf.read a = s.buf.read a := by
  have hb : (takeHeader s).buf
      = (((s.buf.write 0 0xAA).write 1 0xFF).write 2 0x03).write 3 0x00 := by
    simp only [takeHeader, memWrite_one, State.setFstate_buf, State.setLen_buf, State.setBuf_buf]
    rfl
  refine ⟨rfl, ?_⟩
  rw [hb]
  refine ⟨by simp, by simp, by simp, by simp, fun a ha => ?_⟩
  simp only [Memory.read_write]
  rw [if_neg (by omega), if_neg (by omega), if_neg (by omega), if_neg (by omega)]

theorem takeHeader_wf {s : State} (h : s.buf.wf) : (takeHeader s).buf.wf := by
  have hb : (takeHeader s).buf
      = (((s.buf.write 0 0xAA).write 1 0xFF).write 2 0x03).write 3 0x00 := by
    simp only [takeHeader, memWrite_one, State.setFstate_buf, State.setLen_buf, State.setBuf_buf]
    rfl
  rw [hb]
  exact Memory.wf_write _ (Memory.wf_write _ (Memory.wf_write _ (Memory.wf_write _ h (by omega))
    (by omega)) (by omega)) (by omega)

/-! ### Complete frame -/

/-- The raw field is the two bytes of the record, low byte first. -/
theorem rawField_toNat (m : Memory) (i off : Nat) :
    (rawField m i off).toNat
      = (m.read (4 + 8 * i + off)).toNat + 256 * (m.read (4 + 8 * i + off + 1)).toNat := by
  have h1 := (m.read (4 + 8 * i + off)).isLt
  have h2 := (m.read (4 + 8 * i + off + 1)).isLt
  simp only [rawField, recBase, recLen, memRead_two, BitVec.toNat_ofNat]
  omega

/-- The raw field depends on its two bytes only. -/
theorem rawField_congr {m m' : Memory} {i off : Nat}
    (h : m.read (4 + 8 * i + off) = m'.read (4 + 8 * i + off))
    (h' : m.read (4 + 8 * i + off + 1) = m'.read (4 + 8 * i + off + 1)) :
    rawField m i off = rawField m' i off := by
  apply BitVec.eq_of_toNat_eq
  rw [rawField_toNat, rawField_toNat, h, h']

/-- The correction of a field is its sign and magnitude (30_encoding.md R96). -/
theorem smdec_rawField (m : Memory) (i off : Nat) :
    smdec (rawField m i off)
      = signMagnitude (m.read (4 + 8 * i + off)) (m.read (4 + 8 * i + off + 1)) := by
  have h := rawField_toNat m i off
  have h1 := (m.read (4 + 8 * i + off)).isLt
  have h2 := (m.read (4 + 8 * i + off + 1)).isLt
  simp only [smdec, s16, smBias, signMagnitude, BitVec.toInt_eq_toNat_cond, h]
  split_ifs <;> omega

theorem square_toNat_le {x : Int} (h : -32767 ≤ x) (h' : x ≤ 32767) : x * x ≤ 32767 * 32767 := by
  nlinarith

/-- The distance of decoded coordinates fits its register (41_target_decoder.md R160). -/
theorem rdist_lt {x y : Int} (hx : -32767 ≤ x) (hx' : x ≤ 32767) (hy : -32767 ≤ y)
    (hy' : y ≤ 32767) : rdist x y ≤ 46340 := by
  have hn : (x * x + y * y).toNat ≤ 2147352578 := by
    have h1 := square_toNat_le hx hx'
    have h2 := square_toNat_le hy hy'
    omega
  have hs := (isqrt_spec (x * x + y * y).toNat).1
  have hr : isqrt (x * x + y * y).toNat ≤ 46339 := by
    by_contra hc
    have := Nat.mul_le_mul (show 46340 ≤ isqrt (x * x + y * y).toNat by omega)
      (show 46340 ≤ isqrt (x * x + y * y).toNat by omega)
    omega
  rcases rdist_cases x y with ⟨h, -⟩ | ⟨h, -⟩ <;> omega

/-- The nearest integer to a root, from the integer square root. -/
theorem rdist_nearest (x y : Int) : IsNearestRoot (rdist x y) (x * x + y * y).toNat := by
  generalize hn : (x * x + y * y).toNat = n
  have hc := rdist_cases x y
  simp only [hn] at hc
  obtain ⟨h1, h2⟩ := isqrt_spec n
  rcases hc with ⟨hd, hk⟩ | ⟨hd, hk⟩
  · rw [hd]
    refine ⟨by nlinarith, ?_⟩
    rcases Nat.eq_zero_or_pos (isqrt n) with h0 | hpos
    · exact .inl h0
    · right
      obtain ⟨r, hr⟩ : ∃ r, isqrt n = r + 1 := ⟨isqrt n - 1, by omega⟩
      rw [hr] at h1 ⊢
      have : 2 * (r + 1) - 1 = 2 * r + 1 := by omega
      rw [this]; nlinarith
  · rw [hd]
    refine ⟨by nlinarith, .inr ?_⟩
    have : 2 * (isqrt n + 1) - 1 = 2 * isqrt n + 1 := by omega
    rw [this]; nlinarith

/-- A decoded slot: its numbers are those of its record, and the flag is kept. -/
theorem decodeSlot_spec (m : Memory) (i : Nat) (old : Target) :
    DecodedFrom (decodeSlot m i old) (fun k => m.read (4 + 8 * i + k))
    ∧ (decodeSlot m i old).zf = old.zf := by
  have hx := smdec_range (rawField m i offX)
  have hy := smdec_range (rawField m i offY)
  have hv := smdec_range (rawField m i offSpd)
  have ex : (decodeSlot m i old).x.toInt = smdec (rawField m i offX) :=
    toLane_toInt (by omega) (by omega)
  have ey : (decodeSlot m i old).y.toInt = -smdec (rawField m i offY) :=
    toLane_toInt (by omega) (by omega)
  have ev : (decodeSlot m i old).spd.toInt = smdec (rawField m i offSpd) :=
    toLane_toInt (by omega) (by omega)
  have ed : (decodeSlot m i old).dist.toNat
      = rdist (smdec (rawField m i offX)) (-smdec (rawField m i offY)) := by
    have := rdist_lt (x := smdec (rawField m i offX)) (y := -smdec (rawField m i offY))
      (by omega) (by omega) (by omega) (by omega)
    show (BitVec.ofNat 16 (rdist (smdec (rawField m i offX)) (-smdec (rawField m i offY)))).toNat = _
    rw [BitVec.toNat_ofNat]
    omega
  refine ⟨⟨?_, ?_, ?_, ?_⟩, rfl⟩
  · rw [ex, smdec_rawField]; rfl
  · rw [ey, smdec_rawField]; rfl
  · rw [ev, smdec_rawField]; rfl
  · rw [ed, ex, ey]; exact rdist_nearest _ _

/-- A decoded slot depends on the six field bytes only. -/
theorem decodeSlot_congr {m m' : Memory} {i : Nat} {o o' : Target}
    (h : ∀ k, k < 6 → m.read (4 + 8 * i + k) = m'.read (4 + 8 * i + k)) :
    decodeSlot m i o = { decodeSlot m' i o' with zf := o.zf } := by
  have hx : rawField m i offX = rawField m' i offX := rawField_congr (h 0 (by omega)) (h 1 (by omega))
  have hy : rawField m i offY = rawField m' i offY := rawField_congr (h 2 (by omega)) (h 3 (by omega))
  have hv : rawField m i offSpd = rawField m' i offSpd :=
    rawField_congr (h 4 (by omega)) (h 5 (by omega))
  simp only [decodeSlot, hx, hy, hv]

theorem activeFlag_iff (s : State) (t : Target) : activeFlag s t = true ↔ InZone s t := by
  simp only [activeFlag, Bool.and_eq_true, decide_eq_true_eq, and_assoc]
  rfl

/-- The flag depends on the zone registers and the coordinates only. -/
theorem activeFlag_congr {s s' : State} (h1 : s.x1 = s'.x1) (h2 : s.x2 = s'.x2)
    (h3 : s.y1 = s'.y1) (h4 : s.y2 = s'.y2) (t : Target) : activeFlag s t = activeFlag s' t := by
  simp only [activeFlag, h1, h2, h3, h4]

/-- The target file after DECODE and CLASSIFY. -/
def frameTargets (s : State) : Vector Target 3 :=
  #v[flagged s (decodeSlot s.buf 0 s.tgt[0]), flagged s (decodeSlot s.buf 1 s.tgt[1]),
    flagged s (decodeSlot s.buf 2 s.tgt[2])]

theorem classify_decode (s : State) :
    classify (decodeTargets s)
      = { s with tgt := frameTargets s, cnt := BitVec.ofNat 2 (flagCount (frameTargets s)) } := rfl

/-- The count fits its register. -/
theorem flagCount_lt (v : Vector Target 3) : flagCount v < 4 := by
  have h : ∀ b : Bool, b.toNat ≤ 1 := by decide
  have h0 := h v[0].zf
  have h1 := h v[1].zf
  have h2 := h v[2].zf
  simp only [flagCount]
  omega

theorem frameTargets_get (s : State) (i : Nat) (h : i < 3) :
    (frameTargets s)[i] = flagged s (decodeSlot s.buf i s.tgt[i]) := by
  rcases i with _ | _ | _ | i
  · rfl
  · rfl
  · rfl
  · omega

/-- A complete frame: DECODE, CLASSIFY, STAMP, `LEN` and `FSTATE`; nothing else. -/
theorem completeFrame_eq (s : State) :
    completeFrame s = { s with
      len := 0, fstate := .seekingHeader, tgt := frameTargets s,
      cnt := BitVec.ofNat 2 (flagCount (frameTargets s)),
      last := if 0 < flagCount (frameTargets s) then s.now else s.last } := by
  have hc : (BitVec.ofNat 2 (flagCount (frameTargets s))).toNat = flagCount (frameTargets s) := by
    have := flagCount_lt (frameTargets s)
    rw [BitVec.toNat_ofNat]
    omega
  simp only [completeFrame, stamp, classify_decode, hc]
  by_cases h : 0 < flagCount (frameTargets s)
  · rw [if_pos h, if_pos h]; rfl
  · rw [if_neg h, if_neg h]; rfl

/-! ### The byte as a whole -/

theorem execRxb_eq (b : Byte) (s : State) :
    exec (.rxb b) s = .next { receiveByte b s with rsp := none } := rfl

theorem receiveByte_disabled {b : Byte} {s : State} (h : s.en = false) : receiveByte b s = s := by
  simp [receiveByte, h]

theorem receiveByte_header {b : Byte} {s : State} (he : s.en = true) (h : CompletesHeader s b) :
    receiveByte b s = takeHeader (appendByte b (windowPush b s)) := by
  simp only [receiveByte, he, if_true, assemble, (headerSeen_received b s).mpr h]

theorem receiveByte_frame {b : Byte} {s : State} (he : s.en = true) (h : CompletesFrame s b) :
    receiveByte b s = completeFrame (appendByte b (windowPush b s)) := by
  have hh : headerSeen (appendByte b (windowPush b s)) = false := by
    rw [Bool.eq_false_iff, ne_eq, headerSeen_received]
    exact not_header_of_frame h
  simp [receiveByte, he, assemble, hh, (footerSeen_received b s).mpr h]

theorem receiveByte_ordinary {b : Byte} {s : State} (he : s.en = true)
    (h : ¬ CompletesHeader s b) (h' : ¬ CompletesFrame s b) :
    receiveByte b s = appendByte b (windowPush b s) := by
  have hh : headerSeen (appendByte b (windowPush b s)) = false := by
    rw [Bool.eq_false_iff, ne_eq, headerSeen_received]; exact h
  have hf : footerSeen (appendByte b (windowPush b s)) = false := by
    rw [Bool.eq_false_iff, ne_eq, footerSeen_received]; exact h'
  simp [receiveByte, he, assemble, hh, hf]

end Sys2Proof.Machine
end

