-- ==== Sys2Proof/Machine/Trace.lean ====
section
/-! DEFINITION. The traces of the spec (30_encoding.md R123) and their pseudo-operations (R124), which
expand to inputs of the ports and have no encoding of their own. A line stands here as its parts; the
characters it is written in are no part of the block (log 13). -/

namespace Sys2Proof.Machine

/-- `RXS h0 h1 … @t`: one `RXB` per byte, in order, all with the same `now` (30_encoding.md R124). -/
def rxs (bytes : List Byte) (t : Time) : List Input := bytes.map fun b => .rx b t

/-- A 16-bit field on the wire, low byte first (30_encoding.md R96). -/
def fieldBytes (f : Lane) : List Byte := [f.extractLsb' 0 8, f.extractLsb' 8 8]

/-- `REC x y spd p6 p7`: the 8 bytes of a target record; y is negated on the wire
(30_encoding.md R95, R97, R124). -/
def recordBytes (x y spd : Int) (p6 p7 : Byte) : List Byte :=
  fieldBytes (smenc x) ++ fieldBytes (smenc (-y)) ++ fieldBytes (smenc spd) ++ [p6, p7]

/-- `EMPTY` = `REC 0 0 0` (30_encoding.md R124). -/
def emptyRecord : List Byte := recordBytes 0 0 0 0 0

/-- The wire frame of 24 record bytes: header, records, footer (30_encoding.md R94). -/
def frameBytes (records : List Byte) : List Byte :=
  [header0, header1, header2, header3] ++ records ++ [footer0, footer1]

/-- `FRAME r0 | r1 | r2 @t` (30_encoding.md R124). -/
def frame (r0 r1 r2 : List Byte) (t : Time) : List Input := rxs (frameBytes (r0 ++ r1 ++ r2)) t

/-- What a line of a trace names: an operation, the reset input, or a pseudo-operation (R123, R124). -/
inductive TraceOp where
  /-- An operation of R100. -/
  | op (i : Instr)
  /-- `RESET avail=v`. -/
  | reset (avail : Bool)
  /-- `RXS h0 h1 …`. -/
  | rxs (bytes : List Byte)
  /-- `FRAME r0 | r1 | r2`, each record as its 8 bytes. -/
  | frame (r0 r1 r2 : List Byte)
  /-- `GETD`: `RDCFG`, reading lanes `c`, `d` only. -/
  | getd
  deriving DecidableEq, Repr

/-- The fields of a response that a line can expect after `->` (R92, R123). -/
inductive RspField where
  | ill
  | st1
  | st0
  | a
  | b
  | c
  | d
  deriving DecidableEq, Repr

/-- A line of a trace: `op [@now] [-> field=value …]` (R123). -/
structure TraceLine where
  op : TraceOp
  now : Option Time
  expect : List (RspField × Int)
  deriving DecidableEq, Repr

/-- The inputs that a line's operation stands for, at a given `now` (R124). -/
def traceOpInputs (o : TraceOp) (t : Time) : List Input :=
  match o with
  | .op i => [inputOf (encode i) t]
  | .reset v => [.reset v]
  | .rxs bytes => rxs bytes t
  | .frame r0 r1 r2 => frame r0 r1 r2 t
  | .getd => [inputOf (encode .rdcfg) t]

/-- The operations whose effect uses `now`: `RXB` and `QPRES` (10_state.md R21). -/
def usesNow : Instr → Bool
  | .rxb _ => true
  | .nop => false
  | .qpres _ => true
  | .rdstat => false
  | .rdwin => false
  | .rdbuf _ => false
  | .rdtgt _ => false
  | .rdlast => false
  | .rdcfg => false
  | .rdtmo => false
  | .sett _ => false
  | .setd _ _ => false
  | .setz _ _ _ _ => false
  | .zdef => false
  | .cfgld => false
  | .cfgsv => false
  | .slotw _ _ => false
  | .slotr _ => false

/-- Whether a line needs `now`. R123 does not say which lines do: the model takes those whose
operations use it (10_state.md R21). DEDUCED (log 13). -/
def needsNow : TraceOp → Bool
  | .op i => usesNow i
  | .reset _ => false
  | .rxs _ => true
  | .frame _ _ _ => true
  | .getd => false

/-- The inputs of a trace. A line without `@now` takes the `now` of the line before (`prev`); the
first line that needs one must give it, else the trace has no meaning (R123). A line that needs none
and has none samples `shown`, whatever the time source shows then: the trace does not say, and the
argument is left open (log 13). -/
def traceInputs (shown : Time) (prev : Option Time) : List TraceLine → Option (List Input)
  | [] => some []
  | l :: rest =>
    let t := l.now <|> prev
    if needsNow l.op && t.isNone then none
    else (traceInputs shown t rest).map fun r => traceOpInputs l.op (t.getD shown) ++ r

/-- The value of an expected field against a response word: a bit, or a lane as its 16-bit pattern
(R92, R123). -/
def fieldMatches (r : Word72) (f : RspField × Int) : Bool :=
  match f.1 with
  | .ill => decide (f.2 = ((topByte r).getLsbD 7).toNat)
  | .st1 => decide (f.2 = ((topByte r).getLsbD 1).toNat)
  | .st0 => decide (f.2 = ((topByte r).getLsbD 0).toNat)
  | .a => decide (toLane f.2 = laneA r)
  | .b => decide (toLane f.2 = laneB r)
  | .c => decide (toLane f.2 = laneC r)
  | .d => decide (toLane f.2 = laneD r)

/-- A response is what a line expects: every field it names matches (R123). A line that expects
nothing accepts any response. -/
def responseMatches (l : TraceLine) (r : Option Word72) : Bool :=
  match r with
  | some w => l.expect.all (fieldMatches w)
  | none => l.expect.isEmpty

end Sys2Proof.Machine
end

