-- ==== Sys2Proof/Tests/Slice0.lean ====
section
/-! SUPPORT. Tests of the model against the spec's own vectors (95_test_vectors.md; the section is in
each comment), the smoke test of WellFormed, and a witness for the hypotheses of each obligation. -/

namespace Sys2Proof.Tests
open Sys2Proof.Machine Sys2Proof.Safety

/-! ### Decoding: words written out from 30_encoding.md R91, R100 -/

theorem test_decode_rxb : decode (.rx 0x55) = .ok (.rxb 0x55) := rfl
theorem test_decode_nop : decode (.host 0x00DEADBEEF12345678) = .ok .nop := rfl
theorem test_decode_qpres : decode (.host 0x01000000000000000A) = .ok (.qpres 10) := rfl
theorem test_decode_rdstat : decode (.host 0x020000000000000000) = .ok .rdstat := rfl
theorem test_decode_rdwin : decode (.host 0x030000000000000000) = .ok .rdwin := rfl
theorem test_decode_rdbuf : decode (.host 0x04000000000000000D) = .ok (.rdbuf 13) := rfl
theorem test_decode_rdtgt : decode (.host 0x050000000000000002) = .ok (.rdtgt 2) := rfl
theorem test_decode_rdlast : decode (.host 0x060000000000000000) = .ok .rdlast := rfl
theorem test_decode_rdcfg : decode (.host 0x070000000000000000) = .ok .rdcfg := rfl
theorem test_decode_rdtmo : decode (.host 0x080000000000000000) = .ok .rdtmo := rfl
theorem test_decode_sett : decode (.host 0x09DEADBEEF12340014) = .ok (.sett 20) := rfl
theorem test_decode_setd : decode (.host 0x0A0000000001F409C4) = .ok (.setd 500 2500) := rfl
theorem test_decode_setz :
    decode (.host 0x0BFC1803E800000BB8) = .ok (.setz (-1000) 1000 0 3000) := rfl
theorem test_decode_zdef : decode (.host 0x0C0000000000000000) = .ok .zdef := rfl
theorem test_decode_cfgld : decode (.host 0x0D0000000000000000) = .ok .cfgld := rfl
theorem test_decode_cfgsv : decode (.host 0x0E0000000000000000) = .ok .cfgsv := rfl
theorem test_decode_slotw : decode (.host 0x0FAAAABBBB000012FE) = .ok (.slotw 0 0xFE) := rfl
theorem test_decode_slotr : decode (.host 0x100000000000040000) = .ok (.slotr 4) := rfl

/-- Section 3.5: the reserved opcodes `11`, `80` and `FF`. -/
theorem test_decode_reserved :
    decode (.host 0x110000000000000000) = .error (.reservedOpcode 0x11)
    ∧ decode (.host 0x800000000000000000) = .error (.reservedOpcode 0x80)
    ∧ decode (.host 0xFF0001000200030004) = .error (.reservedOpcode 0xFF) := ⟨rfl, rfl, rfl⟩

/-- A table row as the host numbers it. -/
theorem test_decodeTableWord :
    decodeTableWord 8 0xCC = some (.rxb 0xCC)
    ∧ decodeTableWord 72 0x100000000000030000 = some (.slotr 3)
    ∧ decodeTableWord 72 0x110000000000000000 = none := ⟨rfl, rfl, rfl⟩

/-! ### Well-formed operations: an ill-formed term for each check -/

theorem test_wf_rdbuf : Instr.wf (.rdbuf 31) = true ∧ Instr.wf (.rdbuf 32) = false := by decide
theorem test_wf_rdtgt : Instr.wf (.rdtgt 2) = true ∧ Instr.wf (.rdtgt 3) = false := by decide
theorem test_wf_slotw : Instr.wf (.slotw 4 9) = true ∧ Instr.wf (.slotw 5 9) = false := by decide
theorem test_wf_slotr : Instr.wf (.slotr 4) = true ∧ Instr.wf (.slotr 5) = false := by decide

/-! ### Small states -/

/-- A buffer with these bytes from index `k` on. -/
def cellsFrom (k : Nat) : List Byte → List Host.Cell
  | [] => []
  | b :: rest => if b = 0 then cellsFrom (k + 1) rest else (k, b) :: cellsFrom (k + 1) rest

/-- The state after reset with a timeout of 30 seconds: no value depends on `DEFAULT_TIMEOUT`. -/
def base : State := { State.reset with tmo := 30, slot := #v[30, 68, 188, 128, 188] }

/-- `base` after these bytes were appended behind a header, with this window. -/
def receiving (l : List Byte) (len : Fin 33) (w : Vector Byte 4) : State :=
  { base with buf := ⟨cellsFrom 0 l⟩, len := len, fstate := .accumulating, w := w, now := 100 }

/-- The frame FA, `FRAME REC 50 30 0 | EMPTY | EMPTY`, without its footer (vector S1). -/
def faBody : List Byte := [0xAA, 0xFF, 0x03, 0x00, 0x32, 0x00, 0x1E, 0x80]

/-- `base` just before the last byte of FA at `now = 100` (vectors S1 and A1, byte 29). -/
def beforeLast : State :=
  { receiving faBody 29 #v[0, 0, 0, 0x55] with buf := ⟨cellsFrom 0 faBody ++ [(28, 0x55)]⟩ }

/-- `base` after FA at `now = 100` (vector S1). -/
def afterFa : State :=
  { base with tgt := #v[⟨50, 30, 0, 58, true⟩, Target.reset, Target.reset], cnt := 1, last := 100,
              w := #v[0, 0, 0x55, 0xCC] }

/-- What one field or pair of fields of the next state is. -/
def after {α : Type} (f : State → α) : Host.Outcome State Fault Refusal → Option α
  | .next t => some (f t)
  | .fault _ => none
  | .refused _ => none

/-! ### One step each -/

/-- S1: the completing byte. -/
theorem test_rxb_completes :
    after (fun t => (t.tgt, t.cnt, t.last, t.len, t.fstate)) (exec (.rxb 0xCC) beforeLast)
      = some (#v[⟨50, 30, 0, 58, true⟩, Target.reset, Target.reset], 1, 100, 0, .seekingHeader) := by
  decide
/-- A12: `AA AA FF 03`, then `00`: a header, with `LEN` 4 and not 5. -/
theorem test_rxb_header :
    after (fun t => (t.len, t.fstate, t.buf.read 1, t.buf.read 2, t.w))
      (exec (.rxb 0x00) { receiving [0xAA, 0xAA, 0xFF, 0x03] 4 #v[0xAA, 0xAA, 0xFF, 0x03] with
        fstate := .seekingHeader })
      = some (4, .accumulating, 0xFF, 0x03, #v[0xAA, 0xFF, 0x03, 0x00]) := by decide
/-- Section 3.5. -/
theorem test_nop : after (·.rsp) (exec .nop afterFa) = some (some 0) := by decide
/-- P1: `LAST = 100`, `TMO = 30` here: present at 129, absent at 130 (the rule of P5). -/
theorem test_qpres_timeout :
    after (·.rsp) (exec (.qpres 0) { afterFa with now := 129 }) = some (some 0x010000000000000000)
    ∧ after (·.rsp) (exec (.qpres 0) { afterFa with now := 130 }) = some (some 0) := by decide
/-- P4: at the top of the time range the sum does not wrap. -/
theorem test_qpres_top :
    after (·.rsp) (exec (.qpres 65535) { afterFa with last := 4294967295, now := 4294967295 })
      = some (some 0x010000000000000000) := by decide
/-- S1 and S2 (c). -/
theorem test_rdstat :
    after (·.rsp) (exec .rdstat afterFa) = some (some 0x010000000000010000)
    ∧ after (·.rsp) (exec .rdstat (receiving [0xAA, 0xFF, 0x03] 4 #v[0xAA, 0xFF, 0x03, 0]))
      = some (some 0x030000000000000004) := by decide
/-- S2 (c). -/
theorem test_rdwin :
    after (·.rsp) (exec .rdwin { base with w := #v[0xAA, 0xFF, 0x03, 0x00] })
      = some (some 0x0000000000AAFF0300) := by decide
/-- S2 (c): `RDBUF 0`, and `RDBUF 4` with `LEN = 4`, refused. -/
theorem test_rdbuf :
    after (·.rsp) (exec (.rdbuf 0) (receiving [0xAA, 0xFF, 0x03] 4 #v[0xAA, 0xFF, 0x03, 0]))
      = some (some 0x0000000000000000AA)
    ∧ after (·.rsp) (exec (.rdbuf 4) (receiving [0xAA, 0xFF, 0x03] 4 #v[0xAA, 0xFF, 0x03, 0]))
      = some (some 0x800000000000000000) := by decide
/-- S1: a present target, an absent one. -/
theorem test_rdtgt :
    after (·.rsp) (exec (.rdtgt 0) afterFa) = some (some 0x030032001E0000003A)
    ∧ after (·.rsp) (exec (.rdtgt 1) afterFa) = some (some 0) := by decide
/-- Section 3.5. -/
theorem test_rdtgt_refused :
    after (·.rsp) (exec (.rdtgt 3) afterFa) = some (some 0x800000000000000000) := by decide
/-- P6. -/
theorem test_rdlast :
    after (·.rsp) (exec .rdlast { base with last := 1700000000 })
      = some (some 0x00000000006553F100) := by decide
/-- K1. -/
theorem test_rdcfg : after (·.rsp) (exec .rdcfg base) = some (some 0x00E890177000001770) := by decide
/-- K2. -/
theorem test_rdtmo : after (·.rsp) (exec .rdtmo base) = some (some 0x00000000000000001E) := by decide
/-- K3: saturation at 255. -/
theorem test_sett :
    after (fun t => (t.tmo, t.slot, t.x1, t.rsp)) (exec (.sett 300) base)
      = some (255, #v[0xFF, 0x44, 0xBC, 0x80, 0xBC], -6000, some 0) := by decide
/-- K4: truncation, and a degenerate pair. -/
theorem test_setd :
    after (fun t => (t.x1, t.x2, t.y1, t.y2, t.slot)) (exec (.setd (-500) 2550) base)
      = some (-6000, 6000, 0, 2500, #v[0x1E, 0x44, 0xBC, 0x7B, 0x99])
    ∧ after (fun t => (t.y1, t.y2, t.slot)) (exec (.setd 3000 1000) base)
      = some (3000, 6000, #v[0x1E, 0x44, 0xBC, 0x9E, 0x8A]) := by decide
/-- K5, row 9: truncation toward zero on both sides. -/
theorem test_setz :
    after (fun t => (t.x1, t.x2, t.y1, t.y2, t.slot)) (exec (.setz (-99) 99 99 199) base)
      = some (0, 6000, 0, 100, #v[0x1E, 0x80, 0x80, 0x80, 0x81]) := by decide
/-- K5, row 7: an inverted zone (90_conflicts.md C3). -/
theorem test_setz_inverted :
    after (fun t => (t.x1, t.x2, t.y1, t.y2, t.slot)) (exec (.setz 7200 (-2800) 0 6000) base)
      = some (7200, 6000, 0, 6000, #v[0x1E, 0xC8, 0x64, 0x80, 0xBC]) := by decide
/-- K6. -/
theorem test_zdef :
    after (fun t => (t.x1, t.y1, t.y2, t.tmo, t.slot)) (exec .zdef { base with x1 := 1000 })
      = some (-6000, 0, 6000, 30, #v[0x1E, 0x44, 0xBC, 0x80, 0xBC]) := by decide
/-- K2: the registers come from the slot. -/
theorem test_cfgld :
    after (fun t => (t.x1, t.x2, t.y1, t.y2, t.tmo))
      (exec .cfgld { base with slot := #v[9, 118, 138, 128, 158] })
      = some (-1000, 1000, 0, 3000, 9) := by decide
/-- K7: the slot comes from the registers. -/
theorem test_cfgsv :
    after (·.slot) (exec .cfgsv { base with tmo := 9, slot := #v[9, 0x44, 0xBC, 0xC8, 0xBC] })
      = some #v[0x09, 0x44, 0xBC, 0x80, 0xBC] := by decide
/-- K7 and section 3.5: the slot only, and a refused index. -/
theorem test_slotw :
    after (fun t => (t.slot, t.x1)) (exec (.slotw 1 100) base)
      = some (#v[0x1E, 0x64, 0xBC, 0x80, 0xBC], -6000)
    ∧ after (fun t => (t.slot, t.rsp)) (exec (.slotw 5 1) base)
      = some (#v[0x1E, 0x44, 0xBC, 0x80, 0xBC], some 0x800000000000000000) := by decide
/-- K2 and section 3.5. -/
theorem test_slotr :
    after (·.rsp) (exec (.slotr 2) base) = some (some 0x0000000000000000BC)
    ∧ after (·.rsp) (exec (.slotr 5) base) = some (some 0x800000000000000000) := by decide

/-! ### Functions of one value -/

/-- S4: the decode direction. -/
theorem test_smdec :
    smdec 0x0032 = 50 ∧ smdec 0x8000 = 0 ∧ smdec 0x801E = -30 ∧ smdec 0x7FFF = 32767
    ∧ smdec 0xFFFF = -32767 := by decide
/-- S4: the encode direction. -/
theorem test_smenc : smenc (-30) = 0x801E ∧ smenc 6000 = 0x1770 ∧ smenc (-32767) = 0xFFFF := by
  decide
/-- T3. -/
theorem test_rdist :
    rdist 0 0 = 0 ∧ rdist 1 2 = 2 ∧ rdist 2 2 = 3 ∧ rdist 100 100 = 141 ∧ rdist (-500) 1500 = 1581
    ∧ rdist 6000 6000 = 8485 ∧ rdist (-32767) 32767 = 46340 := by decide
/-- K9. -/
theorem test_encMm :
    encMm (-6050) = 68 ∧ encMm (-99) = 128 ∧ encMm 6099 = 188 ∧ encMm 12800 = 255
    ∧ encMm (-12899) = 0 ∧ encMm (-12900) = 0 := by decide
/-- The frame FA as the trace notation writes it. -/
theorem test_frame :
    frameBytes (recordBytes 50 30 0 0 0 ++ emptyRecord ++ emptyRecord)
      = faBody ++ [0, 0, 0, 0, 0, 0, 0, 0, 0, 0] ++ [0, 0, 0, 0, 0, 0, 0, 0, 0, 0]
        ++ [0x55, 0xCC] := by decide

/-- A trace of three lines (30_encoding.md R123): the third takes the `now` of the second; a first
`RXB` or `QPRES` without `now` has none. -/
theorem test_trace_now :
    traceInputs 7 none [⟨.reset true, none, []⟩, ⟨.rxs [0xAA, 0xFF], some 100, []⟩,
        ⟨.op (.qpres 10), none, [(.st0, 0)]⟩]
      = some [.reset true, .rx 0xAA 100, .rx 0xFF 100, .host 0x01000000000000000A 100]
    ∧ traceInputs 7 none [⟨.op (.qpres 10), none, []⟩] = none
    ∧ traceInputs 7 none [⟨.rxs [0xAA], none, []⟩] = none := by decide
/-- K2: a trace without any `now`, of operations that use none. -/
theorem test_trace_without_now :
    traceInputs 7 none [⟨.reset true, none, []⟩, ⟨.op (.slotw 0 30), none, []⟩,
        ⟨.op .cfgld, none, []⟩, ⟨.getd, none, []⟩]
      = some [.reset true, .host 0x0F000000000000001E 7, .host 0x0D0000000000000000 7,
        .host 0x070000000000000000 7] := by decide
/-- `RDTGT 0 -> X=50 Y=30 SPD=0 DIST=58 ZF=1 PRESENT=1` (S1, R123). -/
theorem test_trace_response :
    responseMatches ⟨.op (.rdtgt 0), none, [(.a, 50), (.b, 30), (.c, 0), (.d, 58), (.st0, 1),
      (.st1, 1), (.ill, 0)]⟩ (some 0x030032001E0000003A) = true := by decide

/-! ### A run through the ports -/

/-- A reserved opcode is answered by a next state (Program 4). -/
theorem test_step_reserved :
    after (fun t => (t.rsp, t.inp)) (step { base with inp := [.host 0x2A0001000200030004 5] })
      = some (some 0x800000000000000000, []) := by decide
/-- A word placed by the host is run by the next step. -/
theorem test_withFetchWord :
    after (fun t => (t.w, t.inp)) (step (base.withFetchWord 8 0x55)) = some (#v[0, 0, 0, 0x55], [])
    ∧ after (·.slot) (step (base.withFetchWord 72 0x0F0000000000040009))
      = some #v[30, 68, 188, 128, 9] := by decide

/-! ### Witnesses: states and operands that meet the hypotheses of each obligation -/

theorem witness_UnusedOperandBitsAreIgnored :
    let v : Word72 := 0x0FAAAABBBB000012FE
    let w : Word72 := 0x0F00000000000000FE
    v ≠ w ∧ topByte v = topByte w ∧ laneC v = laneC w
      ∧ (laneD v).toNat % 256 = (laneD w).toNat % 256 ∧ (topByte v).toNat ≤ 0x10 := by decide
/-- The two words differ in ignored bits only. -/
theorem witness_DecodeAndEncodeAgree :
    SameNamedBits (.host 0x0FAAAABBBB000012FE) (encode (.slotw 0 0xFE))
    ∧ (PortWord.host 0x0FAAAABBBB000012FE) ≠ encode (.slotw 0 0xFE)
    ∧ decode (.host 0x0FAAAABBBB000012FE) = .ok (.slotw 0 0xFE) := by
  refine ⟨?_, by decide, rfl⟩
  show _ ∧ _
  decide
theorem witness_ReservedOpcodeIsAnsweredIll :
    { base with inp := [.host 0x110000000000000000 7] }.inp = .host 0x110000000000000000 7 :: []
    ∧ 0x11 ≤ (topByte 0x110000000000000000).toNat ∧ ¬ 0x11 ≤ (topByte 0x100000000000000000).toNat
    ∧ 0x11 ≤ (topByte 0xFF0000000000000000).toNat := by decide
theorem witness_StepRunsTheDecodedOperation :
    { base with inp := [.rx 0x55 7, .reset true] }.inp = inputOf (.rx 0x55) 7 :: [.reset true]
    ∧ decode (.rx 0x55) = .ok (.rxb 0x55)
    ∧ { base with inp := [.host 0 7] }.inp = inputOf (.host 0) 7 :: []
    ∧ decode (.host 0) = .ok .nop := ⟨rfl, rfl, rfl, rfl⟩
theorem witness_NothingHappensWithoutInput : base.inp = [] := rfl
theorem witness_CoincidentArrivalIsOneOfTwoSequences :
    { base with inp := [.both 0xCC 0 7] }.inp = .both 0xCC 0 7 :: [] := rfl
theorem witness_ResetInputWritesEveryRegister :
    { afterFa with inp := [.reset false] }.inp = .reset false :: [] := rfl
theorem witness_ResetInputGivesTheResetState :
    { afterFa with inp := [.reset true, .rx 0xAA 7] }.inp = .reset true :: [.rx 0xAA 7] := rfl
theorem witness_DisabledRxbChangesNothing : { base with en := false }.en = false := rfl
theorem witness_RxbShiftsTheWindowAndReachesNoConfiguration : base.en = true := rfl

/-- A full buffer and a window that ends in `AA FF 03` (vector S2 (b)). -/
def fullBeforeHeader : State := { base with len := 32, w := #v[0x77, 0xAA, 0xFF, 0x03] }

theorem witness_HeaderRestartsTheBuffer :
    fullBeforeHeader.en = true ∧ CompletesHeader fullBeforeHeader 0x00
    ∧ fullBeforeHeader.len.val = 32
    ∧ CompletesHeader { fullBeforeHeader with len := 0 } 0x00 := by
  unfold CompletesHeader; decide
theorem witness_OrdinaryByteIsAppendedOrDropped :
    { base with len := 31 }.en = true
    ∧ ¬ CompletesHeader { base with len := 31 } 0x77 ∧ ¬ CompletesFrame { base with len := 31 } 0x77
    ∧ ¬ CompletesHeader { base with len := 32 } 0x77
    ∧ ¬ CompletesFrame { base with len := 32 } 0x77 := by
  unfold CompletesHeader CompletesFrame; decide
theorem completes_beforeLast : CompletesFrame beforeLast 0xCC := by
  unfold CompletesFrame; decide
theorem witness_CompletingByteDecodesClassifiesStamps :
    beforeLast.en = true ∧ CompletesFrame beforeLast 0xCC := ⟨rfl, completes_beforeLast⟩

/-- `beforeLast` with other bytes `+6` and `+7` in record 0 and another label. -/
def beforeLast' : State :=
  { beforeLast with buf := memWrite beforeLast.buf 10 2 0xCDAB, fstate := .seekingHeader }

theorem witness_FrameOutputDependsOnFieldBytesOnly :
    beforeLast ≠ beforeLast' ∧ beforeLast.en = true ∧ beforeLast'.en = true
    ∧ CompletesFrame beforeLast 0xCC ∧ CompletesFrame beforeLast' 0xCC
    ∧ (∀ i k, i < 3 → k < 6 →
        beforeLast.buf.read (4 + 8 * i + k) = beforeLast'.buf.read (4 + 8 * i + k))
    ∧ (∃ t t', exec (.rxb 0xCC) beforeLast = .next t ∧ exec (.rxb 0xCC) beforeLast' = .next t')
    ∧ beforeLast.x1 = beforeLast'.x1 ∧ beforeLast.x2 = beforeLast'.x2
    ∧ beforeLast.y1 = beforeLast'.y1 ∧ beforeLast.y2 = beforeLast'.y2
    ∧ beforeLast.now = beforeLast'.now ∧ beforeLast.last = beforeLast'.last := by
  refine ⟨fun h => absurd (congrArg State.fstate h) (by decide), rfl, rfl, completes_beforeLast,
    completes_beforeLast, ?_, ⟨_, _, rfl, rfl⟩, rfl, rfl, rfl, rfl, rfl, rfl⟩
  have h : ∀ i, i < 3 → ∀ k, k < 6 →
      beforeLast.buf.read (4 + 8 * i + k) = beforeLast'.buf.read (4 + 8 * i + k) := by decide
  exact fun i k hi hk => h i hi k hk
theorem witness_InvertedZoneActivatesNoTarget :
    { beforeLast with x1 := 7200 }.en = true ∧ CompletesFrame { beforeLast with x1 := 7200 } 0xCC
    ∧ { beforeLast with x1 := 7200 }.x2.toInt < { beforeLast with x1 := 7200 }.x1.toInt
    ∧ { beforeLast with y1 := 12700 }.y2.toInt < { beforeLast with y1 := 12700 }.y1.toInt :=
  ⟨rfl, completes_beforeLast, by decide, by decide⟩
theorem witness_TargetFileIsWrittenByCompletingRxbOnly :
    ∃ t, exec (.rxb 0xCC) beforeLast = .next t ∧ t.tgt ≠ beforeLast.tgt := by
  refine ⟨_, rfl, ?_⟩; decide
theorem witness_LastIsWrittenByStampOrResetOnly :
    (∃ t, exec (.rxb 0xCC) beforeLast = .next t ∧ t.last = 100)
    ∧ (∃ t, step { beforeLast with inp := [.rx 0xCC 200] } = .next t ∧ t.last = 200)
    ∧ ∃ t, step { afterFa with inp := [.reset true] } = .next t ∧ t.last = 0 := by
  refine ⟨⟨_, rfl, ?_⟩, ⟨_, rfl, ?_⟩, ⟨_, rfl, ?_⟩⟩ <;> decide
theorem witness_LabelDecidesNothing : ∃ t, exec (.rxb 0xCC) beforeLast = .next t := ⟨_, rfl⟩
/-- A stale byte at index 31 that only one of the two states has. -/
theorem witness_StaleBytesReachNoOutput :
    SameButStale beforeLast { beforeLast with buf := beforeLast.buf.write 31 0x77 }
    ∧ beforeLast.buf.read 31 ≠ (beforeLast.buf.write 31 0x77).read 31
    ∧ ∃ t, exec (.rxb 0xCC) beforeLast = .next t := by
  refine ⟨⟨rfl, ?_⟩, by decide, ⟨_, rfl⟩⟩
  show ∀ k, k < 29 → (beforeLast.buf.write 31 0x77).read k = beforeLast.buf.read k
  decide
theorem witness_CompletionsAreThirtyBytesApart :
    afterFa.w[2] = 0x55 ∧ afterFa.w[3] = 0xCC ∧ afterFa.len.val = 0
    ∧ (List.replicate 29 (0xCC : Byte)).length < 30 := by decide
theorem witness_WholeFrameIsDecoded :
    let l := recordBytes 50 30 0 0 0 ++ emptyRecord ++ emptyRecord
    base.en = true ∧ l.length = 24
    ∧ ∀ k, 1 ≤ k → ¬ HeaderAt ([0xAA, 0xFF, 0x03, 0x00] ++ l ++ [0x55, 0xCC]) k := by
  refine ⟨rfl, by decide, fun k hk h => ?_⟩
  by_cases h30 : k < 30
  · have hd : ∀ k, k < 30 → 1 ≤ k →
        ([0xAA, 0xFF, 0x03, 0x00] ++ (recordBytes 50 30 0 0 0 ++ emptyRecord ++ emptyRecord)
          ++ [0x55, 0xCC])[k]? ≠ some (0xAA : Byte) := by decide
    exact hd k h30 hk h.1
  · have hn := List.getElem?_eq_none (l := [0xAA, 0xFF, 0x03, 0x00]
      ++ (recordBytes 50 30 0 0 0 ++ emptyRecord ++ emptyRecord) ++ [0x55, 0xCC]) (i := k)
      (le_trans (by decide) (not_lt.mp h30))
    exact absurd (hn.symm.trans h.1) (by simp)
/-- The ends of the range, and `8000`, which is left out. -/
theorem witness_CorrectionInvertsSensorEncoding :
    ((-32767 : Int) ≤ -32767 ∧ (-32767 : Int) ≤ 32767) ∧ ((-32767 : Int) ≤ 32767 ∧ (32767 : Int) ≤ 32767)
    ∧ (0x7FFF : Lane) ≠ 0x8000 ∧ smenc (smdec 0x8000) ≠ 0x8000 := by decide
theorem witness_DistanceIsNearestInteger :
    (-32767 : Int) ≤ -32767 ∧ (-32767 : Int) ≤ 32767 ∧ (-32767 : Int) ≤ 32767 ∧ (32767 : Int) ≤ 32767 := by
  decide
/-- The corners (x1, y1) and (x2, y2), and one millimetre beyond each side. -/
theorem witness_ZoneBoundariesAreInclusive :
    base.x1.toInt ≤ base.x2.toInt ∧ base.y1.toInt ≤ base.y2.toInt
    ∧ 0 < (⟨base.x1, base.y1, 0, 6000, false⟩ : Target).dist.toNat
    ∧ 0 < (⟨base.x2, base.y2, 0, 8485, false⟩ : Target).dist.toNat
    ∧ (-6001 : Lane).toInt = base.x1.toInt - 1 ∧ (6001 : Lane).toInt = base.x2.toInt + 1
    ∧ (-1 : Lane).toInt = base.y1.toInt - 1 ∧ (6001 : Lane).toInt = base.y2.toInt + 1 := by decide
/-- The first and the last second of the window, and the second after it. -/
theorem witness_PresenceHoldsForTheTimeout :
    afterFa.last.toNat ≠ 0 ∧ base.last.toNat = 0
    ∧ 30 = (if (0 : Lane).toNat = 0 then afterFa.tmo.toNat else (0 : Lane).toNat)
    ∧ (afterFa.last.toNat ≤ { afterFa with now := 100 }.now.toNat
        ∧ { afterFa with now := 129 }.now.toNat < afterFa.last.toNat + 30)
    ∧ afterFa.last.toNat + 30 ≤ { afterFa with now := 130 }.now.toNat := by decide
/-- The ends of each range; 12800 and -12900 belong to the saturated ones only. -/
theorem witness_BoundByteTruncatesAndSaturates :
    decMm (encMm 0) = 0 ∧ decMm (encMm 12799) = 12700 ∧ decMm (encMm 12800) = 12700
    ∧ decMm (encMm (-12899)) = -12800 ∧ decMm (encMm (-12900)) = -12800
    ∧ decMm (encMm 32767) = 12700 ∧ decMm (encMm (-32768)) = -12800
    ∧ (12700 : Int) = 100 * 127 := by decide

theorem configSound_base : ConfigSound base := by
  refine ⟨by decide, ⟨⟨-60, by decide⟩, ⟨60, by decide⟩, ?_⟩, ⟨⟨0, by decide⟩, ⟨60, by decide⟩, ?_⟩⟩
    <;> decide
/-- The zero-width zone of vector Z5: the lower bound at 6000. -/
theorem configSound_zeroWidth : ConfigSound { base with x1 := 6000 } := by
  refine ⟨by decide, ⟨⟨60, by decide⟩, ⟨60, by decide⟩, ?_⟩, ⟨⟨0, by decide⟩, ⟨60, by decide⟩, ?_⟩⟩
    <;> decide
theorem witness_CfgldLoadsTheSlot : topByte 0x0D0000000000000000 = 0x0D := by decide
theorem witness_CfgsvSavesTheRegisters :
    topByte 0x0E0000000000000000 = 0x0E ∧ ConfigSound base := ⟨by decide, configSound_base⟩
theorem witness_SlotwWritesOneByteOrRefuses :
    topByte 0x0FAAAABBBB000012FE = 0x0F ∧ (4 : Lane).toNat < 5 ∧ 5 ≤ (5 : Lane).toNat := by decide
theorem witness_SlotrAnswersOneByteOrRefuses :
    topByte 0x100000000000000000 = 0x10 ∧ (4 : Lane).toNat < 5 ∧ 5 ≤ (5 : Lane).toNat := by decide
theorem witness_SettSetsTheTimeout :
    topByte 0x090000000000000000 = 0x09 ∧ (0 : Lane).toNat = 0 ∧ (1 : Lane).toNat ≠ 0
    ∧ ConfigSound base := ⟨by decide, by decide, by decide, configSound_base⟩
theorem witness_SetdSetsTheDistancePair :
    topByte 0x0A0000000000000000 = 0x0A ∧ base.tmo ≠ 0 := by decide
theorem witness_SetzSetsTheZone :
    topByte 0x0BFC1803E800000BB8 = 0x0B ∧ base.tmo ≠ 0 := by decide
theorem witness_ZdefRestoresTheDefaultZone : topByte 0x0C0000000000000000 = 0x0C := by decide
theorem witness_SetOperationsDoNotReadTheSlot :
    ConfigSound base ∧ base.slot ≠ #v[9, 9, 9, 9, 9] := ⟨configSound_base, by decide⟩
theorem witness_SaveThenLoadKeepsTheRegisters :
    ConfigSound base ∧ ConfigSound { base with x1 := 6000 } :=
  ⟨configSound_base, configSound_zeroWidth⟩
theorem witness_QpresAnswersPresence : topByte 0x010000000000000000 = 0x01 := by decide
theorem witness_NopAnswersZero : topByte 0x00DEADBEEF12345678 = 0x00 := by decide
theorem disabledQuiet_base : DisabledQuiet { base with en := false } :=
  fun _ => ⟨rfl, rfl, rfl, rfl, rfl, rfl⟩
theorem witness_RdstatAnswersStatus :
    topByte 0x020000000000000000 = 0x02 ∧ DisabledQuiet { base with en := false }
    ∧ { base with en := false }.en = false := ⟨by decide, disabledQuiet_base, rfl⟩
theorem targetsSound_afterFa : TargetsSound afterFa := by
  unfold TargetsSound TargetSound IsNearestRoot; decide
/-- Slot 0 is present, slot 2 is absent, 3 is refused. -/
theorem witness_RdtgtAnswersOneSlotOrRefuses :
    topByte 0x050000000000000000 = 0x05 ∧ TargetsSound afterFa ∧ (2 : Lane).toNat < 3
    ∧ 3 ≤ (3 : Lane).toNat ∧ (topByte (targetRsp afterFa.tgt[2]).word).toNat < 2 :=
  ⟨by decide, targetsSound_afterFa, by decide, by decide, by decide⟩
theorem witness_RdlastAnswersTheStamp : topByte 0x060000000000000000 = 0x06 := by decide
theorem witness_RdwinAnswersTheWindow : topByte 0x030000000000000000 = 0x03 := by decide
theorem witness_RdbufAnswersAValidByteOrRefuses :
    topByte 0x040000000000000000 = 0x04 ∧ (28 : Lane).toNat < beforeLast.len.val
    ∧ beforeLast.len.val ≤ (29 : Lane).toNat := by decide
theorem witness_RdcfgAnswersTheZone : topByte 0x070000000000000000 = 0x07 := by decide
theorem witness_RdtmoAnswersTheTimeout :
    topByte 0x080000000000000000 = 0x08 ∧ ConfigSound base := ⟨by decide, configSound_base⟩
theorem witness_ReadsHaveNoSideEffect :
    Instr.rdcfg ∈ [.nop, .rdstat, .rdwin, .rdlast, .rdcfg, .rdtmo]
    ∧ ∀ d, Instr.rdcfg ≠ .qpres d := ⟨by decide, by simp⟩
theorem witness_IllIsAnsweredInTheListedCasesOnly :
    (∀ b, Instr.rdtgt 3 ≠ .rxb b) ∧ (∃ d, Instr.rdtgt 3 = .rdtgt d ∧ 3 ≤ d.toNat)
    ∧ 128 ≤ (topByte illWord).toNat
    ∧ { base with inp := [.host 0x2A0001000200030004 5] }.inp = .host 0x2A0001000200030004 5 :: []
    ∧ 0x11 ≤ (topByte 0x2A0001000200030004).toNat :=
  ⟨by simp, ⟨3, rfl, by decide⟩, by decide, rfl, by decide⟩
theorem witness_HostOperationsLeaveAssemblerAndTargets : ∀ b, Instr.sett 5 ≠ .rxb b := by simp
theorem witness_EnableIsSetByResetOnly :
    { base with inp := [.reset false] }.inp = .reset false :: [] ∧ { base with en := false }.en = false
    ∧ (∀ b, Instr.zdef ≠ .rxb b) ∧ Instr.zdef ≠ .rdstat ∧ ∃ t, exec .zdef base = .next t :=
  ⟨rfl, rfl, by simp, by simp, ⟨_, rfl⟩⟩
theorem witness_RegistersAreTheLoadedSlotWhenWritten :
    (∃ t, exec (.setz 1 2 3 4) base = .next t ∧ t.x1 ≠ base.x1) ∧ ∃ t, exec .cfgsv base = .next t :=
  ⟨⟨_, rfl, by decide⟩, ⟨_, rfl⟩⟩

/-- A header has just been received. -/
def afterHeader : State := receiving [0xAA, 0xFF, 0x03] 4 #v[0xAA, 0xFF, 0x03, 0x00]

theorem bufferSound_afterHeader : BufferSound { afterHeader with inp := [.rx 0x32 9] } := by
  refine ⟨by decide, by decide, ?_⟩
  decide
theorem witness_StepKeepsBufferSound :
    BufferSound { afterHeader with inp := [.rx 0x32 9] }
    ∧ ∃ t, step { afterHeader with inp := [.rx 0x32 9] } = .next t ∧ t.len.val = 5 :=
  ⟨bufferSound_afterHeader, _, rfl, by decide⟩
theorem witness_StepKeepsTargetsSound :
    TargetsSound { afterFa with inp := [.reset true] }
    ∧ ∃ t, step { afterFa with inp := [.reset true] } = .next t ∧ t.cnt ≠ afterFa.cnt :=
  ⟨targetsSound_afterFa, _, rfl, by decide⟩
theorem witness_StepKeepsConfigurationSound :
    ConfigSound { base with inp := [.host 0x0B1C20F51000001770 9] }
    ∧ ∃ t, step { base with inp := [.host 0x0B1C20F51000001770 9] } = .next t ∧ t.x1 = 7200 :=
  ⟨configSound_base, _, rfl, by decide⟩
theorem witness_StepKeepsDisabledBlockQuiet :
    DisabledQuiet { base with en := false, inp := [.rx 0xAA 9] }
    ∧ ∃ t, step { base with en := false, inp := [.rx 0xAA 9] } = .next t ∧ t.en = false :=
  ⟨disabledQuiet_base, _, rfl, by decide⟩

end Sys2Proof.Tests
end

section
/-! The writers of the registers: what a HOST operation, an `RXB` and a step can do to a state, once
each, and the statements of 10_state.md that say which operation writes the target file, `CNT`, `LAST`
and `EN`. -/

namespace Sys2Proof.Machine
open Sys2Proof.Safety

/-! ### The HOST operations with an index: refused beyond the range, run within it -/

theorem exec_rdbuf_refused {d : Lane} {s : State} (h : s.len.val ≤ d.toNat) :
    exec (.rdbuf d) s = .next (refuseIll s) :=
  congrArg _ (if_pos h)

theorem exec_rdbuf_read {d : Lane} {s : State} (h : d.toNat < s.len.val) :
    exec (.rdbuf d) s = .next (answer { d := BitVec.ofNat 16 (memRead s.buf d.toNat 1) } s) :=
  congrArg _ (if_neg (Nat.not_le.mpr h))

theorem exec_rdtgt_read {d : Lane} {s : State} (h : d.toNat < 3) :
    exec (.rdtgt d) s = .next (answer (targetRsp s.tgt[d.toNat]) s) :=
  congrArg _ (dif_pos h)

theorem exec_rdtgt_refused {d : Lane} {s : State} (h : 3 ≤ d.toNat) :
    exec (.rdtgt d) s = .next (refuseIll s) :=
  congrArg _ (dif_neg (Nat.not_lt.mpr h))

theorem exec_slotw_write {c : Lane} {d : Byte} {s : State} (h : c.toNat < 5) :
    exec (.slotw c d) s = .next (answer {} (s.setSlot (s.slot.set c.toNat d))) :=
  congrArg _ (dif_pos h)

theorem exec_slotw_refused {c : Lane} {d : Byte} {s : State} (h : 5 ≤ c.toNat) :
    exec (.slotw c d) s = .next (refuseIll s) :=
  congrArg _ (dif_neg (Nat.not_lt.mpr h))

theorem exec_slotr_read {c : Lane} {s : State} (h : c.toNat < 5) :
    exec (.slotr c) s = .next (answer { d := s.slot[c.toNat].setWidth 16 } s) :=
  congrArg _ (dif_pos h)

theorem exec_slotr_refused {c : Lane} {s : State} (h : 5 ≤ c.toNat) :
    exec (.slotr c) s = .next (refuseIll s) :=
  congrArg _ (dif_neg (Nat.not_lt.mpr h))

/-! ### A HOST operation as a whole -/

/-- Every HOST operation only answers, or sets the configuration, or loads the slot, or writes the
slot. -/
theorem exec_host_cases {i : Instr} (hi : ∀ b, i ≠ .rxb b) (s : State) :
    (∃ r, exec i s = .next (answer r s)) ∨ (∃ v, exec i s = .next (persist v s))
    ∨ exec i s = .next (answer {} (cfgload s))
    ∨ ∃ v, exec i s = .next (answer {} (s.setSlot v)) := by
  cases i with
  | rxb b => exact absurd rfl (hi b)
  | nop | qpres | rdstat | rdwin | rdlast | rdcfg | rdtmo => exact .inl ⟨_, rfl⟩
  | rdbuf d =>
    rcases Nat.lt_or_ge d.toNat s.len.val with h | h
    · exact .inl ⟨_, exec_rdbuf_read h⟩
    · exact .inl ⟨_, exec_rdbuf_refused h⟩
  | rdtgt d =>
    rcases Nat.lt_or_ge d.toNat 3 with h | h
    · exact .inl ⟨_, exec_rdtgt_read h⟩
    · exact .inl ⟨_, exec_rdtgt_refused h⟩
  | slotr c =>
    rcases Nat.lt_or_ge c.toNat 5 with h | h
    · exact .inl ⟨_, exec_slotr_read h⟩
    · exact .inl ⟨_, exec_slotr_refused h⟩
  | sett | setd | setz | zdef => exact .inr (.inl ⟨_, rfl⟩)
  | cfgld => exact .inr (.inr (.inl rfl))
  | cfgsv => exact .inr (.inr (.inr ⟨_, rfl⟩))
  | slotw c d =>
    rcases Nat.lt_or_ge c.toNat 5 with h | h
    · exact .inr (.inr (.inr ⟨_, exec_slotw_write h⟩))
    · exact .inl ⟨_, exec_slotw_refused h⟩

/-- A HOST operation writes at most the working configuration, the slot and the response port
(20_memory.md R73). -/
theorem exec_host_frame {i : Instr} (hi : ∀ b, i ≠ .rxb b) (s : State) :
    ∃ t, exec i s = .next t
      ∧ t = { s with tmo := t.tmo, x1 := t.x1, x2 := t.x2, y1 := t.y1, y2 := t.y2,
                     slot := t.slot, rsp := t.rsp } := by
  rcases exec_host_cases hi s with ⟨r, h⟩ | ⟨v, h⟩ | h | ⟨v, h⟩ <;> exact ⟨_, h, rfl⟩

/-- A HOST operation other than `RDSTAT` does the same with any value in `EN`, and keeps it there. -/
theorem exec_host_setEn {i : Instr} {s t : State} (v : Bool) (hi : ∀ b, i ≠ .rxb b)
    (hr : i ≠ .rdstat) (h : exec i s = .next t) :
    exec i { s with en := v } = .next { t with en := v } := by
  cases i with
  | rxb b => exact absurd rfl (hi b)
  | rdstat => exact absurd rfl hr
  | rdbuf d =>
    rcases Nat.lt_or_ge d.toNat s.len.val with hd | hd
    · rw [exec_rdbuf_read hd] at h; cases h; exact exec_rdbuf_read hd
    · rw [exec_rdbuf_refused hd] at h; cases h; exact exec_rdbuf_refused hd
  | rdtgt d =>
    rcases Nat.lt_or_ge d.toNat 3 with hd | hd
    · rw [exec_rdtgt_read hd] at h; cases h; exact exec_rdtgt_read hd
    · rw [exec_rdtgt_refused hd] at h; cases h; exact exec_rdtgt_refused hd
  | slotr c =>
    rcases Nat.lt_or_ge c.toNat 5 with hc | hc
    · rw [exec_slotr_read hc] at h; cases h; exact exec_slotr_read hc
    · rw [exec_slotr_refused hc] at h; cases h; exact exec_slotr_refused hc
  | slotw c d =>
    rcases Nat.lt_or_ge c.toNat 5 with hc | hc
    · rw [exec_slotw_write hc] at h; cases h; exact exec_slotw_write hc
    · rw [exec_slotw_refused hc] at h; cases h; exact exec_slotw_refused hc
  | nop | qpres | rdwin | rdlast | rdcfg | rdtmo | sett | setd | setz | zdef | cfgld | cfgsv =>
    cases h; rfl

/-! ### What a complete frame leaves -/

theorem decodedFrom_congr {t : Target} {f g : Nat → Byte} (h : DecodedFrom t f)
    (hfg : ∀ k, k < 6 → f k = g k) : DecodedFrom t g := by
  rw [DecodedFrom, hfg 0 (by omega), hfg 1 (by omega), hfg 2 (by omega), hfg 3 (by omega),
    hfg 4 (by omega), hfg 5 (by omega)] at h
  exact h

/-- The targets of a frame are decoded from their records (41_target_decoder.md R150). -/
theorem frameTargets_decoded (s : State) (i : Nat) (hi : i < 3) :
    DecodedFrom (frameTargets s)[i] (fun k => s.buf.read (4 + 8 * i + k)) := by
  rw [frameTargets_get s i hi]
  exact (decodeSlot_spec s.buf i s.tgt[i]).1

/-- The flags of a frame are zone membership (42_zone_classifier.md R170). -/
theorem frameTargets_zf_iff (s : State) (i : Nat) (hi : i < 3) :
    (frameTargets s)[i].zf = true ↔ InZone s (frameTargets s)[i] := by
  rw [frameTargets_get s i hi]
  exact activeFlag_iff s (decodeSlot s.buf i s.tgt[i])

theorem flagCount_toNat (v : Vector Target 3) :
    (BitVec.ofNat 2 (flagCount v)).toNat = flagCount v := by
  rw [BitVec.toNat_ofNat]
  exact Nat.mod_eq_of_lt (flagCount_lt v)

/-! ### An `RXB` as a whole -/

/-- The state that the header test and the footer test look at: after push and append
(40_frame_assembler.md R130). -/
def received (b : Byte) (s : State) : State := appendByte b (windowPush b s)

/-- Push and append reach the window, the buffer and its length only. -/
theorem received_eq (b : Byte) (s : State) :
    received b s = { s with w := #v[s.w[1], s.w[2], s.w[3], b], buf := (received b s).buf,
                            len := (received b s).len } :=
  (appendByte_spec b (windowPush b s)).1

/-- A completing byte leaves the records that are about to be decoded as they were. -/
theorem received_read_of_frame {s : State} {b : Byte} (hf : CompletesFrame s b) {a : Nat}
    (ha : a ≠ 29) : (received b s).buf.read a = s.buf.read a := by
  obtain ⟨hlen, -, -⟩ := hf
  have hread := (appendByte_spec b (windowPush b s)).2.2 a
  rwa [if_neg (by rw [windowPush_eq, hlen]; omega)] at hread

theorem inZone_received (b : Byte) (s : State) (t : Target) :
    InZone (received b s) t ↔ InZone s t := by
  rw [received_eq]
  rfl

/-- An `RXB` that completes a frame (40_frame_assembler.md R137). -/
theorem exec_rxb_frame {s : State} {b : Byte} (he : s.en = true) (hf : CompletesFrame s b) :
    exec (.rxb b) s = .next
      { s with
        w := #v[s.w[1], s.w[2], s.w[3], b], buf := (received b s).buf, len := 0,
        fstate := .seekingHeader, tgt := frameTargets (received b s),
        cnt := BitVec.ofNat 2 (flagCount (frameTargets (received b s))),
        last := if 0 < flagCount (frameTargets (received b s)) then s.now else s.last,
        rsp := none } := by
  rw [execRxb_eq, receiveByte_frame he hf, ← received, completeFrame_eq, received_eq b s]

/-- A byte that completes no frame writes at most the window, the buffer, its length and its label. -/
theorem receiveByte_eq_of_not_frame {b : Byte} {s : State}
    (h : ¬ (s.en = true ∧ CompletesFrame s b)) :
    receiveByte b s = { s with
      w := (receiveByte b s).w, buf := (receiveByte b s).buf, len := (receiveByte b s).len,
      fstate := (receiveByte b s).fstate } := by
  by_cases he : s.en = true
  · have hf : ¬ CompletesFrame s b := fun hc => h ⟨he, hc⟩
    by_cases hh : CompletesHeader s b
    · rw [receiveByte_header he hh, ← received, received_eq, (takeHeader_spec _).1]
    · rw [receiveByte_ordinary he hh hf, ← received, received_eq]
  · rw [receiveByte_disabled (Bool.eq_false_iff.mpr he)]

/-- Every operation but a completing `RXB` keeps the target file, `CNT`, `LAST`, `EN` and the sampled
time. -/
theorem exec_cases (i : Instr) (s : State) :
    (∃ b, i = .rxb b ∧ s.en = true ∧ CompletesFrame s b)
    ∨ ∃ t, exec i s = .next t
      ∧ t.tgt = s.tgt ∧ t.cnt = s.cnt ∧ t.last = s.last ∧ t.en = s.en ∧ t.now = s.now := by
  by_cases hi : ∃ b, i = .rxb b
  · obtain ⟨b, rfl⟩ := hi
    by_cases hf : s.en = true ∧ CompletesFrame s b
    · exact .inl ⟨b, rfl, hf⟩
    · refine .inr ⟨_, execRxb_eq b s, ?_⟩
      rw [receiveByte_eq_of_not_frame hf]
      exact ⟨rfl, rfl, rfl, rfl, rfl⟩
  · obtain ⟨t, h, ht⟩ := exec_host_frame (fun b hb => hi ⟨b, hb⟩) s
    refine .inr ⟨t, h, ?_⟩
    rw [ht]
    exact ⟨rfl, rfl, rfl, rfl, rfl⟩

/-- An operation keeps `LAST`, or is a completing `RXB` with an active target that stamps it with the
sampled time (43_presence_debouncer.md R180). -/
theorem exec_last {i : Instr} {s t : State} (h : exec i s = .next t) :
    t.last = s.last
    ∨ ((∃ b, i = .rxb b ∧ s.en = true ∧ CompletesFrame s b)
        ∧ 0 < t.cnt.toNat ∧ t.len.val = 0 ∧ t.last = s.now ∧ t.now = s.now) := by
  rcases exec_cases i s with ⟨b, rfl, he, hf⟩ | ⟨u, hu, -, -, hlast, -, -⟩
  · rw [exec_rxb_frame he hf] at h
    cases h
    by_cases hc : 0 < flagCount (frameTargets (received b s))
    · exact .inr ⟨⟨b, rfl, he, hf⟩, by rwa [flagCount_toNat], rfl, if_pos hc, rfl⟩
    · exact .inl (if_neg hc)
  · rw [hu] at h
    cases h
    exact .inl hlast

/-- No operation writes `EN`. -/
theorem exec_en (i : Instr) (s : State) : ∃ t, exec i s = .next t ∧ t.en = s.en := by
  rcases exec_cases i s with ⟨b, rfl, he, hf⟩ | ⟨t, h, -, -, -, hen, -⟩
  · exact ⟨_, exec_rxb_frame he hf, rfl⟩
  · exact ⟨t, h, hen⟩

/-! ### A step by its oldest input -/

theorem step_nil {s : State} (h : s.inp = []) : step s = .next s := by
  have hs : serialise s = s := serialise_of_not_both (by simp [h])
  rw [step, hs, takeInput_nil h]
  rfl

theorem step_reset {s : State} {v : Bool} {rest : List Input} (h : s.inp = .reset v :: rest) :
    step s = .next (resetBlock v { s with inp := rest }) := by
  have hs : serialise s = s := serialise_of_not_both (by simp [h])
  rw [step, hs, takeInput_reset h]
  rfl

theorem step_word {s : State} {p : PortWord} {n : Time} {rest : List Input}
    (h : s.inp = inputOf p n :: rest) :
    step s = runTask (.word p) { s with inp := rest, now := n } := by
  cases p with
  | rx b =>
    have hs : serialise s = s := serialise_of_not_both (by simp [h, inputOf])
    rw [step, hs, takeInput_rx h]
  | host w =>
    have hs : serialise s = s := serialise_of_not_both (by simp [h, inputOf])
    rw [step, hs, takeInput_host h]

/-- A coincident arrival runs one of its two words first and leaves the other waiting
(60_exceptions.md R245). -/
theorem step_both {s : State} {b : Byte} {w : Word72} {n : Time} {rest : List Input}
    (h : s.inp = .both b w n :: rest) :
    step s = runTask (.word (.rx b))
        { s with inp := .host w n :: rest, now := n, arb := s.arb + 1 }
    ∨ step s = runTask (.word (.host w))
        { s with inp := .rx b n :: rest, now := n, arb := s.arb + 1 } := by
  rcases serialise_both h with hs | hs
  · left; rw [step, hs, takeInput_rx rfl]
  · right; rw [step, hs, takeInput_host rfl]

/-- A port word runs the operation it decodes to, or is a reserved opcode and is refused. -/
theorem runTask_word_cases (p : PortWord) (u : State) :
    (∃ i, runTask (.word p) u = exec i u) ∨ runTask (.word p) u = .next (refuseIll u) := by
  rw [runTask]
  cases decode p with
  | ok i => exact .inl ⟨i, rfl⟩
  | error e => exact .inr rfl

/-- A step is a reset by the oldest input, or idle, or runs one port word after it has changed the
waiting inputs, the sampled time and the arbiter's counter alone. -/
theorem step_cases_by_input (s : State) :
    (∃ v rest, s.inp = .reset v :: rest ∧ step s = .next (resetBlock v { s with inp := rest }))
    ∨ step s = .next s
    ∨ ∃ p r n a, step s = runTask (.word p) { s with inp := r, now := n, arb := a } := by
  cases h : s.inp with
  | nil => exact .inr (.inl (step_nil h))
  | cons x rest =>
    cases x with
    | rx b n => exact .inr (.inr ⟨.rx b, rest, n, s.arb, step_word h⟩)
    | host w n => exact .inr (.inr ⟨.host w, rest, n, s.arb, step_word h⟩)
    | both b w n =>
      rcases step_both h with hs | hs
      · exact .inr (.inr ⟨_, _, _, _, hs⟩)
      · exact .inr (.inr ⟨_, _, _, _, hs⟩)
    | reset v => exact .inl ⟨v, rest, rfl, step_reset h⟩

/-! ### The statements -/

/-- Settles O20: every other operation keeps the group, and a completing `RXB` writes it whole. -/
theorem targetFileIsWrittenByCompletingRxbOnly :
    Obligations.TargetFileIsWrittenByCompletingRxbOnly := by
  intro i s t h
  rcases exec_cases i s with ⟨b, rfl, he, hf⟩ | ⟨u, hu, htgt, hcnt, -⟩
  · rw [exec_rxb_frame he hf] at h
    cases h
    refine .inr ⟨b, rfl, he, hf, fun k hk => ⟨?_, ?_, flagCount_toNat _⟩⟩
    · exact decodedFrom_congr (frameTargets_decoded _ k hk)
        fun j hj => received_read_of_frame hf (by omega)
    · exact (frameTargets_zf_iff _ k hk).trans (inZone_received b s _)
  · rw [hu] at h
    cases h
    exact .inl ⟨htgt, hcnt⟩

/-- Settles O21: for an operation by `exec_last`; for a step by its oldest input. -/
theorem lastIsWrittenByStampOrResetOnly : Obligations.LastIsWrittenByStampOrResetOnly := by
  refine ⟨fun i s t h => ?_, fun s t h => ?_⟩
  · rcases exec_last h with hkeep | ⟨⟨b, hi, he, hf⟩, hcnt, -, hlast, -⟩
    · exact .inl hkeep
    · exact .inr ⟨b, hi, he, hf, hcnt, hlast⟩
  · rcases step_cases_by_input s with ⟨v, rest, hinp, hs⟩ | hs | ⟨p, r, n, a, hs⟩
    · rw [hs] at h
      cases h
      exact .inr (.inl ⟨v, rest, hinp, rfl⟩)
    · rw [hs] at h
      cases h
      exact .inl rfl
    · rw [hs] at h
      rcases runTask_word_cases p { s with inp := r, now := n, arb := a } with ⟨i, hrun⟩ | hrun
      · rw [hrun] at h
        rcases exec_last h with hkeep | ⟨-, hcnt, hlen, hlast, hnow⟩
        · exact .inl hkeep
        · exact .inr (.inr ⟨hcnt, hlen, hlast.trans hnow.symm⟩)
      · rw [hrun] at h
        cases h
        exact .inl rfl

/-- Settles O54: the reset input, no operation, the ignored `RXB`, the HOST operations. -/
theorem enableIsSetByResetOnly : Obligations.EnableIsSetByResetOnly := by
  refine ⟨fun s v rest h => ⟨_, step_reset h, rfl⟩, exec_en, fun b s he => ?_,
    fun i s t v hi hr h => exec_host_setEn v hi hr h⟩
  rw [execRxb_eq, receiveByte_disabled he]

end Sys2Proof.Machine
end


section
/-! The reads and the HOST port seen from the memory of the block (20_memory.md): on what the answer of
a read can depend, and which registers no HOST operation reaches. -/

namespace Sys2Proof.Machine

/-- The ten reads (20_memory.md R68). -/
def IsRead (i : Instr) : Prop :=
  i ∈ [.nop, .rdstat, .rdwin, .rdlast, .rdcfg, .rdtmo] ∨ (∃ d, i = .qpres d) ∨ (∃ d, i = .rdbuf d)
    ∨ (∃ d, i = .rdtgt d) ∨ ∃ c, i = .slotr c

/-- A read only answers, and its answer depends neither on the response that stands on the port nor,
unless it is `QPRES`, on the sampled time. -/
theorem exec_read_answer {i : Instr} (hi : IsRead i) (s : State) :
    ∃ r, ∀ (o : Option Word72) (n : Time), n = s.now ∨ (∀ d, i ≠ .qpres d) →
      exec i { s with rsp := o, now := n } = .next (answer r { s with now := n }) := by
  rcases hi with hmem | ⟨d, rfl⟩ | ⟨d, rfl⟩ | ⟨d, rfl⟩ | ⟨c, rfl⟩
  · simp only [List.mem_cons, List.not_mem_nil, or_false] at hmem
    rcases hmem with rfl | rfl | rfl | rfl | rfl | rfl
    · exact ⟨{}, fun _ _ _ => rfl⟩
    · exact ⟨{ st0 := s.en, st1 := s.fstate.bit, c := s.cnt.setWidth 16,
               d := BitVec.ofNat 16 s.len.val }, fun _ _ _ => rfl⟩
    · exact ⟨{ c := s.w[0] ++ s.w[1], d := s.w[2] ++ s.w[3] }, fun _ _ _ => rfl⟩
    · exact ⟨{ c := s.last.extractLsb' 16 16, d := s.last.extractLsb' 0 16 }, fun _ _ _ => rfl⟩
    · exact ⟨{ a := s.x1, b := s.x2, c := s.y1, d := s.y2 }, fun _ _ _ => rfl⟩
    · exact ⟨{ d := s.tmo.setWidth 16 }, fun _ _ _ => rfl⟩
  · refine ⟨{ st0 := presFlag s d }, fun o n hn => ?_⟩
    rcases hn with rfl | hne
    · rfl
    · exact absurd rfl (hne d)
  · rcases Nat.lt_or_ge d.toNat s.len.val with h | h
    · exact ⟨{ d := BitVec.ofNat 16 (memRead s.buf d.toNat 1) }, fun _ _ _ => exec_rdbuf_read h⟩
    · exact ⟨{ ill := true }, fun _ _ _ => exec_rdbuf_refused h⟩
  · rcases Nat.lt_or_ge d.toNat 3 with h | h
    · exact ⟨targetRsp s.tgt[d.toNat], fun _ _ _ => exec_rdtgt_read h⟩
    · exact ⟨{ ill := true }, fun _ _ _ => exec_rdtgt_refused h⟩
  · rcases Nat.lt_or_ge c.toNat 5 with h | h
    · exact ⟨{ d := s.slot[c.toNat].setWidth 16 }, fun _ _ _ => exec_slotr_read h⟩
    · exact ⟨{ ill := true }, fun _ _ _ => exec_slotr_refused h⟩

/-- Settles O51: the answer of `exec_read_answer` at the state itself, at the state after the read, and
at another time. -/
theorem readsHaveNoSideEffect : Obligations.ReadsHaveNoSideEffect := by
  intro i s hi
  obtain ⟨r, hr⟩ := exec_read_answer hi s
  exact ⟨answer r s, hr s.rsp s.now (.inl rfl), rfl, hr (some r.word) s.now (.inl rfl),
    fun n hq => hr s.rsp n (.inr hq)⟩

/-- Settles O53: the frame of a HOST operation, `exec_host_frame`. -/
theorem hostOperationsLeaveAssemblerAndTargets :
    Obligations.HostOperationsLeaveAssemblerAndTargets :=
  fun _ s hi => exec_host_frame hi s

end Sys2Proof.Machine
end


section
/-! The operand bits of a word (30_encoding.md R100 to R102, R118, R119): for each opcode, which lanes the
decoder reads, and that every byte of the RX port is an operation. -/

namespace Sys2Proof.Machine

/-! ### What an opcode decodes to -/

/-- The opcodes that name no lane. -/
def bareOpcodes : List Nat := [0x00, 0x02, 0x03, 0x06, 0x07, 0x08, 0x0C, 0x0D, 0x0E]

/-- The opcodes that name lane `d` alone, whole. -/
def laneDOpcodes : List Nat := [0x01, 0x04, 0x05, 0x09]

theorem decode_host_bare {n : Nat} (hn : n ∈ bareOpcodes) :
    ∃ i, ∀ w, (topByte w).toNat = n → decode (.host w) = .ok i := by
  simp only [bareOpcodes, List.mem_cons, List.not_mem_nil, or_false] at hn
  rcases hn with rfl | rfl | rfl | rfl | rfl | rfl | rfl | rfl | rfl
  · exact ⟨.nop, fun w h => by simp only [decode, decodeHost, h]⟩
  · exact ⟨.rdstat, fun w h => by simp only [decode, decodeHost, h]⟩
  · exact ⟨.rdwin, fun w h => by simp only [decode, decodeHost, h]⟩
  · exact ⟨.rdlast, fun w h => by simp only [decode, decodeHost, h]⟩
  · exact ⟨.rdcfg, fun w h => by simp only [decode, decodeHost, h]⟩
  · exact ⟨.rdtmo, fun w h => by simp only [decode, decodeHost, h]⟩
  · exact ⟨.zdef, fun w h => by simp only [decode, decodeHost, h]⟩
  · exact ⟨.cfgld, fun w h => by simp only [decode, decodeHost, h]⟩
  · exact ⟨.cfgsv, fun w h => by simp only [decode, decodeHost, h]⟩

theorem decode_host_laneD {n : Nat} (hn : n ∈ laneDOpcodes) :
    ∃ f : Lane → Instr, ∀ w, (topByte w).toNat = n → decode (.host w) = .ok (f (laneD w)) := by
  simp only [laneDOpcodes, List.mem_cons, List.not_mem_nil, or_false] at hn
  rcases hn with rfl | rfl | rfl | rfl
  · exact ⟨.qpres, fun w h => by simp only [decode, decodeHost, h]⟩
  · exact ⟨.rdbuf, fun w h => by simp only [decode, decodeHost, h]⟩
  · exact ⟨.rdtgt, fun w h => by simp only [decode, decodeHost, h]⟩
  · exact ⟨.sett, fun w h => by simp only [decode, decodeHost, h]⟩

theorem decode_host_setd {w : Word72} (h : (topByte w).toNat = 0x0A) :
    decode (.host w) = .ok (.setd (laneC w) (laneD w)) := by
  simp only [decode, decodeHost, h]

theorem decode_host_setz {w : Word72} (h : (topByte w).toNat = 0x0B) :
    decode (.host w) = .ok (.setz (laneA w) (laneB w) (laneC w) (laneD w)) := by
  simp only [decode, decodeHost, h]

theorem decode_host_slotw {w : Word72} (h : (topByte w).toNat = 0x0F) :
    decode (.host w) = .ok (.slotw (laneC w) (laneLow (laneD w))) := by
  simp only [decode, decodeHost, h]

theorem decode_host_slotr {w : Word72} (h : (topByte w).toNat = 0x10) :
    decode (.host w) = .ok (.slotr (laneC w)) := by
  simp only [decode, decodeHost, h]

theorem decode_host_reserved {w : Word72} (h : 0x11 ≤ (topByte w).toNat) :
    decode (.host w) = .error (.reservedOpcode (topByte w)) := by
  obtain ⟨k, hk⟩ := Nat.exists_eq_add_of_le' h
  rw [decode, decodeHost, hk]
  rfl

/-- Every opcode has one of the operand forms above, or is reserved. -/
theorem opcode_form (n : Nat) :
    n ∈ bareOpcodes ∨ n ∈ laneDOpcodes ∨ n = 0x0A ∨ n = 0x0B ∨ n = 0x0F ∨ n = 0x10 ∨ 0x11 ≤ n := by
  simp only [bareOpcodes, laneDOpcodes, List.mem_cons, List.not_mem_nil, or_false]
  omega

theorem laneLow_eq_iff {a b : Lane} : laneLow a = laneLow b ↔ a.toNat % 256 = b.toNat % 256 := by
  rw [← BitVec.toNat_inj, laneLow_toNat, laneLow_toNat]

/-! ### The statements -/

/-- Settles O2: an operand form at a time; two words that agree on the lanes of the form give the
decoder the same operands. -/
theorem unusedOperandBitsAreIgnored : Obligations.UnusedOperandBitsAreIgnored := by
  intro v w htop op hab hc hd hlow
  have hv : (topByte v).toNat = op := rfl
  have hw : (topByte w).toNat = op := htop ▸ hv
  rcases opcode_form op with h | h | h | h | h | h | h
  · obtain ⟨i, hi⟩ := decode_host_bare h
    rw [hi v hv, hi w hw]
    exact ⟨rfl, fun _ => ⟨i, rfl⟩⟩
  · obtain ⟨f, hf⟩ := decode_host_laneD h
    have hmem : op ∈ [0x01, 0x04, 0x05, 0x09, 0x0A, 0x0B] := List.mem_append_left [0x0A, 0x0B] h
    rw [hf v hv, hf w hw, hd hmem]
    exact ⟨rfl, fun _ => ⟨_, rfl⟩⟩
  · rw [decode_host_setd (hv.trans h), decode_host_setd (hw.trans h), hc (by simp [h]),
      hd (by simp [h])]
    exact ⟨rfl, fun _ => ⟨_, rfl⟩⟩
  · obtain ⟨ha, hb⟩ := hab (by simp [h])
    rw [decode_host_setz (hv.trans h), decode_host_setz (hw.trans h), ha, hb, hc (by simp [h]),
      hd (by simp [h])]
    exact ⟨rfl, fun _ => ⟨_, rfl⟩⟩
  · rw [decode_host_slotw (hv.trans h), decode_host_slotw (hw.trans h), hc (by simp [h]),
      laneLow_eq_iff.mpr (hlow h)]
    exact ⟨rfl, fun _ => ⟨_, rfl⟩⟩
  · rw [decode_host_slotr (hv.trans h), decode_host_slotr (hw.trans h), hc (by simp [h])]
    exact ⟨rfl, fun _ => ⟨_, rfl⟩⟩
  · rw [decode_host_reserved h, decode_host_reserved (hw ▸ h), htop]
    exact ⟨rfl, fun hle => absurd hle (Nat.not_le.mpr h)⟩

/-- Settles O4: an `RXB` receives its byte and clears the response, whatever the state. -/
theorem everyRxByteIsAccepted : Obligations.EveryRxByteIsAccepted :=
  fun b => ⟨rfl, fun s => ⟨_, execRxb_eq b s, rfl⟩⟩

end Sys2Proof.Machine
end


section
/-! The Frame Assembler (40_frame_assembler.md): which registers an `RXB` reaches, and what a byte that
completes a frame leaves. -/

namespace Sys2Proof.Machine
open Sys2Proof.Safety

/-- Push and append leave the shifted window. -/
theorem received_w (b : Byte) (s : State) : (received b s).w = #v[s.w[1], s.w[2], s.w[3], b] := by
  rw [received_eq]

/-- The header and the footer test come after the push and write no window (40_frame_assembler.md
R130, R132). -/
theorem receiveByte_w {b : Byte} {s : State} (he : s.en = true) :
    (receiveByte b s).w = #v[s.w[1], s.w[2], s.w[3], b] := by
  by_cases hh : CompletesHeader s b
  · rw [receiveByte_header he hh, (takeHeader_spec _).1]
    exact received_w b s
  · by_cases hf : CompletesFrame s b
    · rw [receiveByte_frame he hf, completeFrame_eq]
      exact received_w b s
    · rw [receiveByte_ordinary he hh hf]
      exact received_w b s

/-- A byte writes at most the assembler, the target file, `CNT` and `LAST`. -/
theorem receiveByte_reach (b : Byte) (s : State) :
    receiveByte b s = { s with
      w := (receiveByte b s).w, buf := (receiveByte b s).buf, len := (receiveByte b s).len,
      fstate := (receiveByte b s).fstate, tgt := (receiveByte b s).tgt,
      cnt := (receiveByte b s).cnt, last := (receiveByte b s).last } := by
  by_cases h : s.en = true ∧ CompletesFrame s b
  · obtain ⟨he, hf⟩ := h
    rw [receiveByte_frame he hf, ← received, completeFrame_eq, received_eq]
  · rw [receiveByte_eq_of_not_frame h]

/-- A completing byte is stored at index 29, and every other byte of `BUF` stays. -/
theorem received_read_frame {s : State} {b : Byte} (hf : CompletesFrame s b) (a : Nat) :
    (received b s).buf.read a = if a = 29 then b else s.buf.read a := by
  by_cases ha : a = 29
  · have hread := (appendByte_spec b (windowPush b s)).2.2 a
    rw [if_pos (by rw [windowPush_eq, hf.1]; omega)] at hread
    rwa [if_pos ha]
  · rw [if_neg ha, received_read_of_frame hf ha]

/-- Settles O13: `receiveByte_disabled`, and an `RXB` answers nothing. -/
theorem disabledRxbChangesNothing : Obligations.DisabledRxbChangesNothing := by
  intro b s he
  rw [execRxb_eq, receiveByte_disabled he]

/-- Settles O14: the window by `receiveByte_w`, the frame by `receiveByte_reach`. -/
theorem rxbShiftsTheWindowAndReachesNoConfiguration :
    Obligations.RxbShiftsTheWindowAndReachesNoConfiguration := by
  intro b s
  refine ⟨_, execRxb_eq b s, receiveByte_w, ?_⟩
  rw [receiveByte_reach]

/-- Settles O17: `exec_rxb_frame` in closed form; the decoded records lie below index 29, so the byte
appended there does not reach them. -/
theorem completingByteDecodesClassifiesStamps :
    Obligations.CompletingByteDecodesClassifiesStamps := by
  intro b s he hf
  refine ⟨_, exec_rxb_frame he hf, rfl, received_read_frame hf, fun i hi => ?_, fun i hi => ?_,
    flagCount_toNat _, ?_⟩
  · exact decodedFrom_congr (frameTargets_decoded _ i hi)
      fun k hk => received_read_of_frame hf (by omega)
  · exact (frameTargets_zf_iff _ i hi).trans (inZone_received b s _)
  · rw [flagCount_toNat]

end Sys2Proof.Machine
end


section
/-! The distance (41_target_decoder.md R156). The nearest integer to a root is unique, so `rdist` is
determined by `x² + y²`: its values and symmetries follow from that without computing a root. -/

namespace Sys2Proof.Machine
open Sys2Proof.Safety

/-- A nearest root is no smaller than another one: where `d < e`, the root of `n` would lie below
`d + 1/2` and above `e - 1/2`. -/
theorem isNearestRoot_le {d e n : Nat} (hd : IsNearestRoot d n) (he : IsNearestRoot e n) :
    e ≤ d := by
  obtain ⟨hdn, -⟩ := hd
  obtain ⟨-, h0 | hen⟩ := he
  · omega
  · by_contra hlt
    have hsq : (2 * d + 1) ^ 2 ≤ (2 * e - 1) ^ 2 := Nat.pow_le_pow_left (by omega) 2
    omega

/-- No tie can occur (41_target_decoder.md R156). -/
theorem isNearestRoot_unique {d e n : Nat} (hd : IsNearestRoot d n) (he : IsNearestRoot e n) :
    d = e :=
  le_antisymm (isNearestRoot_le he hd) (isNearestRoot_le hd he)

/-- Only zero has the nearest root zero. -/
theorem isNearestRoot_zero_iff {n : Nat} : IsNearestRoot 0 n ↔ n = 0 := by
  simp only [IsNearestRoot, true_or, and_true]
  omega

/-- `rdist` is specified by the nearest integer to the root. -/
theorem rdist_eq_iff {x y : Int} {d : Nat} :
    rdist x y = d ↔ IsNearestRoot d (x * x + y * y).toNat :=
  ⟨fun h => h ▸ rdist_nearest x y, isNearestRoot_unique (rdist_nearest x y)⟩

theorem rdist_congr {x y u v : Int} (h : x * x + y * y = u * u + v * v) : rdist x y = rdist u v :=
  rdist_eq_iff.mpr (h ▸ rdist_nearest u v)

/-- Only the origin has distance zero: a sum of two squares vanishes only there. -/
theorem rdist_eq_zero_iff (x y : Int) : rdist x y = 0 ↔ x = 0 ∧ y = 0 := by
  have hx := mul_self_nonneg x
  have hy := mul_self_nonneg y
  calc rdist x y = 0
      ↔ (x * x + y * y).toNat = 0 := rdist_eq_iff.trans isNearestRoot_zero_iff
    _ ↔ x * x = 0 ∧ y * y = 0 := by omega
    _ ↔ x = 0 ∧ y = 0 := by simp

/-- The farthest corner of the decoded range reaches the bound of `rdist_lt`. -/
theorem rdist_corner : rdist 32767 32767 = 46340 :=
  rdist_eq_iff.mpr ⟨by decide, .inr (by decide)⟩

/-- Settles O28: the nearest integer by `rdist_nearest`, the symmetries by `rdist_congr`, the bound by
`rdist_lt`. -/
theorem distanceIsNearestInteger : Obligations.DistanceIsNearestInteger :=
  ⟨fun x y => ⟨rdist_nearest x y, rdist_congr (by ring), rdist_congr (by ring),
      rdist_congr (by ring), rdist_eq_zero_iff x y⟩,
    fun _ _ hx hx' hy hy' => rdist_lt hx hx' hy hy', rdist_corner⟩

end Sys2Proof.Machine
end


section
/-! The boundaries of the zone (42_zone_classifier.md R170, R171): the zone is the meet of four closed
half-planes, so a target leaves it by passing one of the four sides. -/

namespace Sys2Proof.Machine
open Sys2Proof.Safety

/-- A target is inactive when the distance gate stops it or it lies beyond one of the four sides. -/
theorem activeFlag_eq_false_iff {s : State} {t : Target} :
    activeFlag s t = false ↔ t.dist.toNat = 0
      ∨ t.x.toInt < s.x1.toInt ∨ s.x2.toInt < t.x.toInt
      ∨ t.y.toInt < s.y1.toInt ∨ s.y2.toInt < t.y.toInt := by
  rw [← Bool.not_eq_true, activeFlag_iff, InZone]
  omega

/-- Both corners of a zone that is not inverted lie in it. -/
theorem inZone_corner {s : State} {t : Target} (hd : 0 < t.dist.toNat)
    (hx : s.x1.toInt ≤ s.x2.toInt) (hy : s.y1.toInt ≤ s.y2.toInt)
    (hc : t.x = s.x1 ∧ t.y = s.y1 ∨ t.x = s.x2 ∧ t.y = s.y2) : InZone s t := by
  rcases hc with ⟨hcx, hcy⟩ | ⟨hcx, hcy⟩ <;> rw [InZone, hcx, hcy]
  · exact ⟨hd, le_rfl, hx, le_rfl, hy⟩
  · exact ⟨hd, hx, le_rfl, hy, le_rfl⟩

/-- Settles O29: the edges and corners by `activeFlag_iff`, the four sides by
`activeFlag_eq_false_iff`. -/
theorem zoneBoundariesAreInclusive : Obligations.ZoneBoundariesAreInclusive := by
  intro s t hd
  refine ⟨fun hx1 hx2 hy1 hy2 => ?edge, fun hx hy => ⟨fun hcx hcy => ?low, fun hcx hcy => ?high⟩,
    fun h => ?left, fun h => ?right, fun h => ?below, fun h => ?above⟩
  case edge => exact (activeFlag_iff s t).mpr ⟨hd, hx1, hx2, hy1, hy2⟩
  case low => exact (activeFlag_iff s t).mpr (inZone_corner hd hx hy (.inl ⟨hcx, hcy⟩))
  case high => exact (activeFlag_iff s t).mpr (inZone_corner hd hx hy (.inr ⟨hcx, hcy⟩))
  case left | right | below | above => exact activeFlag_eq_false_iff.mpr (by omega)

end Sys2Proof.Machine
end


section
/-! The presence query (43_presence_debouncer.md R182, R184): the word of `QPRES`, what it answers, and
the answered bit as a number. -/

namespace Sys2Proof.Machine
open Sys2Proof.Safety

theorem decode_host_qpres {w : Word72} (h : topByte w = 0x01) :
    decode (.host w) = .ok (.qpres (laneD w)) := by
  have hop : (topByte w).toNat = 0x01 := congrArg BitVec.toNat h
  simp only [decode, decodeHost, hop]

/-- `QPRES` answers the bit PRES and nothing else, and writes no register. -/
theorem exec_qpres (d : Lane) (s : State) :
    exec (.qpres d) s = .next { s with rsp := some { st0 := presFlag s d : Rsp }.word } := rfl

/-- PRES as the number the status byte carries. -/
theorem presFlag_toNat (s : State) (d : Lane) :
    (presFlag s d).toNat = if s.last.toNat ≠ 0
      ∧ s.now.toNat < s.last.toNat + (if d.toNat = 0 then s.tmo.toNat else d.toNat)
      then 1 else 0 := by
  by_cases hp : presFlag s d = true
  · rw [if_pos ((presFlag_iff s d).mp hp), hp, Bool.toNat_true]
  · rw [if_neg (mt (presFlag_iff s d).mpr hp), Bool.eq_false_iff.mpr hp, Bool.toNat_false]

/-- A response that sets at most `st[0]` has that bit for its status byte and zero lanes. -/
theorem rsp_st0_hasFields (v : Bool) :
    HasFields { st0 := v : Rsp }.word v.toNat 0 0 0 0 := by
  simpa using rsp_hasFields { st0 := v }

/-- Settles O30: `QPRES` answers `presFlag`, which as a number is the comparison over the integers. -/
theorem qpresAnswersPresence : Obligations.QpresAnswersPresence := by
  refine ⟨fun _ hw => decode_host_qpres hw, fun d s => ⟨_, exec_qpres d s, ?_⟩⟩
  rw [← presFlag_toNat]
  exact rsp_st0_hasFields (presFlag s d)

end Sys2Proof.Machine
end


section
/-! The byte encoding of a bound (44_configuration.md R190, R191): `dec_mm` after `enc_mm` in closed form,
and from it where the round trip is exact, truncates or saturates. -/

namespace Sys2Proof.Machine
open Sys2Proof.Safety

/-- Truncating division by `CFG_SCALE` moves a number toward zero by less than one step. -/
theorem tdiv_hundred (v : Int) :
    (0 ≤ v → 100 * Int.tdiv v 100 ≤ v ∧ v < 100 * Int.tdiv v 100 + 100)
    ∧ (v ≤ 0 → v ≤ 100 * Int.tdiv v 100 ∧ 100 * Int.tdiv v 100 < v + 100) := by
  have hmod := Int.mul_tdiv_add_tmod v 100
  constructor
  · intro hv
    have hnonneg := Int.tmod_nonneg 100 hv
    have hlt := Int.tmod_lt_of_pos v (b := 100) (by omega)
    omega
  · intro hv
    have hnonpos := Int.tmod_nonneg 100 (a := -v) (by omega)
    have hgt := Int.tmod_lt_of_pos (-v) (b := 100) (by omega)
    rw [Int.neg_tmod] at hnonpos hgt
    omega

/-- A bound after saving and decoding: the multiple of 100 next toward zero, cut to the range of a byte. -/
theorem decMm_encMm_eq (v : Int) :
    decMm (encMm v) = max (-12800) (min 12700 (100 * Int.tdiv v 100)) := by
  have hb : ((encMm v).toNat : Int) = max 0 (min 255 (Int.tdiv v 100 + 128)) := encMm_persists v
  rw [decMm_eq, hb]
  omega

/-- The round trip of a bound is exact for the values that a byte can decode to, and for no other. -/
theorem decMm_encMm_eq_self_iff (v : Int) :
    decMm (encMm v) = v ↔ (∃ k, v = 100 * k) ∧ -12800 ≤ v ∧ v ≤ 12700 := by
  constructor
  · intro h
    have hrange := decMm_range (encMm v)
    have hform := decMm_eq (encMm v)
    exact ⟨⟨(encMm v).toNat - 128, by omega⟩, by omega, by omega⟩
  · rintro ⟨⟨k, hk⟩, hlo, hhi⟩
    exact decMm_encMm hk hlo hhi

/-- Settles O32: the closed form of the round trip, with truncating division bounded on each side of
zero. -/
theorem boundByteTruncatesAndSaturates : Obligations.BoundByteTruncatesAndSaturates := by
  intro v _ _
  obtain ⟨hpos, hneg⟩ := tdiv_hundred v
  have hform := decMm_encMm_eq v
  refine ⟨encMm_persists v, (millimetres_eq _).symm, decMm_encMm_eq_self_iff v, ?_, ?_, ?_, ?_⟩
    <;> omega

end Sys2Proof.Machine
end


section
/-! The operations on the slot (44_configuration.md, section 3): the words of `CFGLD` and `CFGSV`, what
loading and saving leave, and one slot byte written or read. -/

namespace Sys2Proof.Machine
open Sys2Proof.Safety

/-! ### Words -/

theorem decode_host_cfgld {w : Word72} (h : (topByte w).toNat = 0x0D) :
    decode (.host w) = .ok .cfgld := by
  simp only [decode, decodeHost, h]

theorem decode_host_cfgsv {w : Word72} (h : (topByte w).toNat = 0x0E) :
    decode (.host w) = .ok .cfgsv := by
  simp only [decode, decodeHost, h]

/-! ### What the operations leave -/

theorem exec_cfgld (s : State) : exec .cfgld s = .next { cfgload s with rsp := some 0 } :=
  congrArg Host.Outcome.next (answer_empty (cfgload s))

theorem exec_cfgsv (s : State) :
    exec .cfgsv s = .next { s with
      slot := saveBytes s.tmo (s16 s.x1) (s16 s.x2) (s16 s.y1) (s16 s.y2), rsp := some 0 } :=
  congrArg Host.Outcome.next (answer_empty (cfgsave s))

/-- The saved record holds the timeout byte and persists the four bounds (44_configuration.md R195). -/
theorem saveBytes_persists (t : Byte) (x1 x2 y1 y2 : Int) :
    let v := saveBytes t x1 x2 y1 y2
    v[0] = t ∧ PersistsBound v[1] x1 ∧ PersistsBound v[2] x2
      ∧ PersistsBound v[3] y1 ∧ PersistsBound v[4] y2 :=
  ⟨rfl, encMm_persists x1, encMm_persists x2, encMm_persists y1, encMm_persists y2⟩

/-- A response that fills at most lane `d` has that lane and is zero elsewhere. -/
theorem rsp_d_hasFields (v : Lane) : HasFields { d := v : Rsp }.word 0 0 0 0 v.toNat := by
  simpa using rsp_hasFields { d := v }

/-! ### The statements -/

/-- Settles O33: `CFGLD` is `cfgload` and an answer; neither reads the response port, so what the load
leaves is still the loaded slot. -/
theorem cfgldLoadsTheSlot : Obligations.CfgldLoadsTheSlot :=
  ⟨fun _ hw => decode_host_cfgld (congrArg BitVec.toNat hw),
    fun s => ⟨_, exec_cfgld s, rfl, cfgload_loaded s⟩⟩

/-- Settles O34: the written slot is the saved record, and saving sound bounds is exact. -/
theorem cfgsvSavesTheRegisters : Obligations.CfgsvSavesTheRegisters := by
  refine ⟨fun _ hw => decode_host_cfgsv (congrArg BitVec.toNat hw),
    fun s => ⟨_, exec_cfgsv s, rfl, ?_⟩⟩
  obtain ⟨h0, h1, h2, h3, h4⟩ :=
    saveBytes_persists s.tmo (s16 s.x1) (s16 s.x2) (s16 s.y1) (s16 s.y2)
  exact ⟨h0, h1, h2, h3, h4, configSound_saves⟩

/-- Settles O35: one byte of the slot is set where the index exists, else the operation is refused. -/
theorem slotwWritesOneByteOrRefuses : Obligations.SlotwWritesOneByteOrRefuses := by
  refine ⟨fun w hw => ⟨_, decode_host_slotw (congrArg BitVec.toNat hw), laneLow_toNat (laneD w)⟩,
    fun c d s => ⟨fun hc => ?_, fun hc => ?_⟩⟩
  · rw [exec_slotw_write hc, answer_empty]
    refine ⟨_, rfl, rfl, fun k hk => ?_⟩
    simp only [State.setSlot_slot, Vector.getElem_set, eq_comm]
  · rw [exec_slotw_refused hc, refuseIll_eq]

/-- Settles O36: the slot byte, widened to lane `d`, where the index exists, else a refusal. -/
theorem slotrAnswersOneByteOrRefuses : Obligations.SlotrAnswersOneByteOrRefuses := by
  refine ⟨fun _ hw => decode_host_slotr (congrArg BitVec.toNat hw),
    fun c s => ⟨fun hc => ⟨_, exec_slotr_read hc, ?_⟩, fun hc => ?_⟩⟩
  · rw [← BitVec.toNat_setWidth_of_le (show 8 ≤ 16 by decide)]
    exact rsp_d_hasFields _
  · rw [exec_slotr_refused hc, refuseIll_eq]

end Sys2Proof.Machine
end


section
/-! The set operations (44_configuration.md, section 4): each persists a requested record. What such a
record leaves in the timeout and in the zone, then one statement per operation. -/

namespace Sys2Proof.Machine
open Sys2Proof.Safety

/-! ### Words -/

theorem decode_host_sett {w : Word72} (h : (topByte w).toNat = 0x09) :
    decode (.host w) = .ok (.sett (laneD w)) := by
  simp only [decode, decodeHost, h]

theorem decode_host_zdef {w : Word72} (h : (topByte w).toNat = 0x0C) :
    decode (.host w) = .ok .zdef := by
  simp only [decode, decodeHost, h]

/-! ### The record each operation persists -/

theorem exec_sett (d : Lane) (s : State) :
    exec (.sett d) s = .next
      (persist (saveBytes (encTimeout d) (s16 s.x1) (s16 s.x2) (s16 s.y1) (s16 s.y2)) s) := rfl

theorem exec_setd (c d : Lane) (s : State) :
    exec (.setd c d) s = .next (persist (saveBytes s.tmo xMin xMax (s16 c) (s16 d)) s) := rfl

theorem exec_setz (a b c d : Lane) (s : State) :
    exec (.setz a b c d) s
      = .next (persist (saveBytes s.tmo (s16 a) (s16 b) (s16 c) (s16 d)) s) := rfl

theorem exec_zdef (s : State) :
    exec .zdef s = .next (persist #v[s.tmo, 68, 188, 128, 188] s) := rfl

theorem encTimeout_eq_zero_iff (d : Lane) : encTimeout d = 0 ↔ d.toNat = 0 := by
  rw [← BitVec.toNat_inj, encTimeout_toNat]
  show min d.toNat 255 = 0 ↔ d.toNat = 0
  omega

/-- The bytes of `ZDEF` are the default zone saved (44_configuration.md R204). -/
theorem saveBytes_defaultZone (t : Byte) :
    saveBytes t (-6000) 6000 0 6000 = #v[t, 68, 188, 128, 188] := by
  have hx1 : encMm (-6000) = 68 := by decide
  have hmax : encMm 6000 = 188 := by decide
  have hy1 : encMm 0 = 128 := by decide
  rw [saveBytes, hx1, hmax, hy1]

/-! ### What persisting a record leaves -/

/-- The timeout in effect is the persisted one, or the default where that is 0. -/
theorem persist_tmo (v : Vector Byte 5) (s : State) :
    (persist v s).tmo = if v[0] = 0 then Config.defaultTimeout else v[0] := rfl

/-- A record with a timeout other than 0 puts that timeout in effect. -/
theorem persist_keeps_tmo {v : Vector Byte 5} {t : Byte} (hv : v[0] = t) (ht : t ≠ 0) (s : State) :
    (persist v s).tmo = t := by
  rw [persist_tmo, hv, if_neg ht]

/-- Persisting the bounds in effect, with any timeout, keeps a sound zone (44_configuration.md R200). -/
theorem persist_keeps_zone {s : State} (h : ConfigSound s) (t : Byte) :
    let u := persist (saveBytes t (s16 s.x1) (s16 s.x2) (s16 s.y1) (s16 s.y2)) s
    u.x1 = s.x1 ∧ u.x2 = s.x2 ∧ u.y1 = s.y1 ∧ u.y2 = s.y2 :=
  loadSlot_saveBytes h t

/-- The bytes 68 and 188 put the full x range in effect, whatever it was (44_configuration.md R202). -/
theorem persist_full_x {v : Vector Byte 5} (h1 : v[1] = 68) (h2 : v[2] = 188) (s : State) :
    (persist v s).x1.toInt = -6000 ∧ (persist v s).x2.toInt = 6000 := by
  have hlo : millimetres 68 = -6000 := by decide
  have hhi : millimetres 188 = 6000 := by decide
  obtain ⟨-, -, hx1, hx2, hx2', -⟩ := persist_loaded v s
  have hslot : (persist v s).slot = v := rfl
  rw [hslot, h1, hlo] at hx1
  rw [hslot, h2, hhi] at hx2 hx2'
  omega

/-- The default zone loads to itself; the timeout is validated as ever (44_configuration.md R204). -/
theorem loadSlot_defaultZone (t : Byte) :
    loadSlot #v[t, 68, 188, 128, 188]
      = ⟨if t = 0 then Config.defaultTimeout else t, -6000, 6000, 0, 6000⟩ := by
  have hx1 : decMm 68 = -6000 := by decide
  have hmax : decMm 188 = 6000 := by decide
  have hy1 : decMm 128 = 0 := by decide
  show validate t (decMm 68) (decMm 188) (decMm 128) (decMm 188) = _
  rw [hx1, hmax, hy1]
  rfl

/-! ### The statements -/

/-- Settles O37: the persisted timeout byte is 0 only for a request of 0, and a sound zone is saved
exactly. -/
theorem settSetsTheTimeout : Obligations.SettSetsTheTimeout := by
  refine ⟨fun _ hw => decode_host_sett (congrArg BitVec.toNat hw),
    fun d s => ⟨_, exec_sett d s, persist_frame _ s, ?_⟩⟩
  obtain ⟨h0, h1, h2, h3, h4⟩ :=
    saveBytes_persists (encTimeout d) (s16 s.x1) (s16 s.x2) (s16 s.y1) (s16 s.y2)
  refine ⟨encTimeout_toNat d, h1, h2, h3, h4, persist_loaded _ s, fun hd => ?_, fun hd => ?_,
    fun hs => persist_keeps_zone hs (encTimeout d)⟩
  · exact (persist_tmo _ s).trans (if_pos (h0.trans ((encTimeout_eq_zero_iff d).mpr hd)))
  · rw [persist_keeps_tmo h0 (mt (encTimeout_eq_zero_iff d).mp hd), encTimeout_toNat]

/-- Settles O38: the bytes of the full x range are 68 and 188, and those load to it. -/
theorem setdSetsTheDistancePair : Obligations.SetdSetsTheDistancePair := by
  refine ⟨fun _ hw => decode_host_setd (congrArg BitVec.toNat hw),
    fun c d s => ⟨_, exec_setd c d s, persist_frame _ s, ?_⟩⟩
  have hlo : encMm xMin = 68 := by decide
  have hhi : encMm xMax = 188 := by decide
  obtain ⟨h0, -, -, h3, h4⟩ := saveBytes_persists s.tmo xMin xMax (s16 c) (s16 d)
  obtain ⟨hx1, hx2⟩ := persist_full_x (v := saveBytes s.tmo xMin xMax (s16 c) (s16 d)) hlo hhi s
  exact ⟨h0, congrArg BitVec.toNat hlo, congrArg BitVec.toNat hhi, h3, h4, persist_loaded _ s,
    hx1, hx2, fun ht => persist_keeps_tmo h0 ht s⟩

/-- Settles O39: the persisted record is the timeout in effect with the four operands. -/
theorem setzSetsTheZone : Obligations.SetzSetsTheZone := by
  refine ⟨fun _ hw => decode_host_setz (congrArg BitVec.toNat hw),
    fun a b c d s => ⟨_, exec_setz a b c d s, persist_frame _ s, ?_⟩⟩
  obtain ⟨h0, h1, h2, h3, h4⟩ := saveBytes_persists s.tmo (s16 a) (s16 b) (s16 c) (s16 d)
  exact ⟨h0, h1, h2, h3, h4, persist_loaded _ s, fun ht => persist_keeps_tmo h0 ht s⟩

/-- Settles O40: the default zone loads to itself, and `SETZ` and `SETD` of it persist the same record. -/
theorem zdefRestoresTheDefaultZone : Obligations.ZdefRestoresTheDefaultZone := by
  refine ⟨fun _ hw => decode_host_zdef (congrArg BitVec.toNat hw),
    fun s => ⟨⟨_, exec_zdef s, ?_, persist_tmo _ s⟩, ?_, ?_⟩⟩
  · obtain ⟨-, hx1, hx2, hy1, hy2⟩ := persist_config #v[s.tmo, 68, 188, 128, 188] s
    rw [loadSlot_defaultZone] at hx1 hx2 hy1 hy2
    have hframe := persist_frame #v[s.tmo, 68, 188, 128, 188] s
    rw [hx1, hx2, hy1, hy2] at hframe
    exact hframe
  · have hx1 : s16 (BitVec.ofInt 16 (-6000)) = -6000 := by decide
    have hmax : s16 6000 = 6000 := by decide
    have hy1 : s16 0 = 0 := by decide
    rw [exec_zdef, exec_setz, hx1, hmax, hy1, saveBytes_defaultZone]
  · have hmax : s16 6000 = 6000 := by decide
    have hy1 : s16 0 = 0 := by decide
    rw [exec_zdef, exec_setd, hmax, hy1, xMin, xMax, saveBytes_defaultZone]

/-- Settles O41: every set operation persists a record that is formed without the slot
(`persist_ignores_slot`); what it does not name is saved from sound registers. -/
theorem setOperationsDoNotReadTheSlot : Obligations.SetOperationsDoNotReadTheSlot := by
  intro s v a b c d
  have hignores : ∀ r, Host.Outcome.next (φ := Fault) (ρ := Refusal) (persist r { s with slot := v })
      = .next (persist r s) := fun r => congrArg _ (persist_ignores_slot r v s)
  refine ⟨⟨hignores _, hignores _, hignores _, hignores _⟩, fun hs => ?_⟩
  have ht : s.tmo ≠ 0 := hs.1
  exact ⟨⟨_, exec_sett d s, persist_keeps_zone hs (encTimeout d)⟩,
    ⟨_, exec_setd c d s, persist_keeps_tmo (t := s.tmo) rfl ht s⟩,
    ⟨_, exec_setz a b c d s, persist_keeps_tmo (t := s.tmo) rfl ht s⟩,
    ⟨_, exec_zdef s, persist_keeps_tmo (t := s.tmo) rfl ht s⟩⟩

end Sys2Proof.Machine
end


section
/-! The status and inspection reads (45_status_reads.md R220, R221, R223 to R227): their words, the
response each one answers, and that response as numbers. -/

namespace Sys2Proof.Machine
open Sys2Proof.Safety

/-! ### Words -/

/-- A word with an opcode that names no lane decodes as the one with zero lanes does. -/
theorem decode_host_bareOpcode {op : Byte} {i : Instr} (hop : op.toNat ∈ bareOpcodes)
    (hi : decode (.host (hostWord op 0 0 0 0)) = .ok i) {w : Word72} (hw : topByte w = op) :
    decode (.host w) = .ok i := by
  obtain ⟨j, hj⟩ := decode_host_bare hop
  rw [hj w (congrArg BitVec.toNat hw), ← hi,
    hj _ (congrArg BitVec.toNat (topByte_hostWord op 0 0 0 0))]

theorem decode_host_rdbuf {w : Word72} (h : (topByte w).toNat = 0x04) :
    decode (.host w) = .ok (.rdbuf (laneD w)) := by
  simp only [decode, decodeHost, h]

/-! ### What the reads answer -/

theorem exec_nop (s : State) : exec .nop s = .next { s with rsp := some 0 } :=
  congrArg Host.Outcome.next (answer_empty s)

/-- The response of `RDSTAT` (45_status_reads.md R221). -/
def statusRsp (s : State) : Rsp :=
  { st0 := s.en, st1 := s.fstate.bit, c := s.cnt.setWidth 16, d := BitVec.ofNat 16 s.len.val }

theorem exec_rdstat (s : State) :
    exec .rdstat s = .next { s with rsp := some (statusRsp s).word } := rfl

theorem exec_rdlast (s : State) :
    exec .rdlast s = .next { s with
      rsp := some { c := s.last.extractLsb' 16 16, d := s.last.extractLsb' 0 16 : Rsp }.word } := rfl

theorem exec_rdwin (s : State) :
    exec .rdwin s = .next { s with
      rsp := some { c := s.w[0] ++ s.w[1], d := s.w[2] ++ s.w[3] : Rsp }.word } := rfl

theorem exec_rdcfg (s : State) :
    exec .rdcfg s = .next { s with
      rsp := some { a := s.x1, b := s.x2, c := s.y1, d := s.y2 : Rsp }.word } := rfl

theorem exec_rdtmo (s : State) :
    exec .rdtmo s = .next { s with rsp := some { d := s.tmo.setWidth 16 : Rsp }.word } := rfl

/-! ### The answers as numbers -/

theorem fstate_bit_toNat (f : FState) :
    f.bit.toNat = if f = .accumulating then 1 else 0 := by
  cases f <;> rfl

/-- A byte in a lane keeps its value (30_encoding.md R110). -/
theorem byte_setWidth_toNat (b : Byte) : (b.setWidth 16).toNat = b.toNat :=
  BitVec.toNat_setWidth_of_le (by decide)

/-- A pair of bytes in one lane, the first in the high half. -/
theorem bytePair_toNat (hi lo : Byte) : (hi ++ lo : Lane).toNat = 256 * hi.toNat + lo.toNat := by
  rw [BitVec.toNat_append, ← Nat.shiftLeft_add_eq_or_of_lt lo.isLt, Nat.shiftLeft_eq, Nat.mul_comm]

theorem time_high_toNat (t : Time) : (t.extractLsb' 16 16).toNat = t.toNat / 65536 := by
  have ht := t.isLt
  rw [BitVec.extractLsb'_toNat, Nat.shiftRight_eq_div_pow]
  omega

theorem time_low_toNat (t : Time) : (t.extractLsb' 0 16).toNat = t.toNat % 65536 := by
  rw [BitVec.extractLsb'_toNat, Nat.shiftRight_zero]

/-- A response that fills lanes `c` and `d` only has those lanes and is zero elsewhere. -/
theorem rsp_cd_hasFields (c d : Lane) :
    HasFields { c := c, d := d : Rsp }.word 0 0 0 c.toNat d.toNat := by
  simpa using rsp_hasFields { c := c, d := d }

/-- `CNT` and `LEN` fit their lanes; `EN` and `FSTATE` are bits 0 and 1 of the status byte. -/
theorem statusRsp_hasFields (s : State) :
    HasFields (statusRsp s).word (s.en.toNat + (if s.fstate = .accumulating then 2 else 0)) 0 0
      s.cnt.toNat s.len.val := by
  have hfields := rsp_hasFields (statusRsp s)
  have hst : 128 * (statusRsp s).ill.toNat + 2 * s.fstate.bit.toNat + s.en.toNat
      = s.en.toNat + (if s.fstate = .accumulating then 2 else 0) := by
    rw [show (statusRsp s).ill.toNat = 0 from rfl, fstate_bit_toNat]
    split <;> omega
  have hcnt : (s.cnt.setWidth 16).toNat = s.cnt.toNat := BitVec.toNat_setWidth_of_le (by decide)
  have hlen : (BitVec.ofNat 16 s.len.val).toNat = s.len.val := by
    rw [BitVec.toNat_ofNat]
    have hlt := s.len.isLt
    omega
  rw [← hst, ← hcnt, ← hlen]
  exact hfields

/-- The report of a disabled block that has seen nothing is the empty response
(45_status_reads.md R221). -/
theorem statusRsp_disabled {s : State} (hq : DisabledQuiet s) (he : s.en = false) :
    statusRsp s = {} := by
  obtain ⟨-, hlen, hfstate, -, hcnt, -⟩ := hq he
  rw [statusRsp, he, hlen, hfstate, hcnt]
  rfl

/-! ### The statements -/

/-- Settles O48: the byte at a valid index, as it stands in `BUF`, else a refusal. -/
theorem rdbufAnswersAValidByteOrRefuses : Obligations.RdbufAnswersAValidByteOrRefuses := by
  refine ⟨fun _ hw => decode_host_rdbuf (congrArg BitVec.toNat hw),
    fun d s => ⟨fun hd => ⟨_, exec_rdbuf_read hd, ?_⟩, fun hd => ?_⟩⟩
  · rw [memRead_one, BitVec.ofNat_toNat, ← byte_setWidth_toNat]
    exact rsp_d_hasFields _
  · rw [exec_rdbuf_refused hd, refuseIll_eq]

/-- Settles O43: the empty response is the all-zero word. -/
theorem nopAnswersZero : Obligations.NopAnswersZero :=
  ⟨fun _ => decode_host_bareOpcode (by decide) rfl, exec_nop⟩

/-- Settles O44: the fields of `statusRsp`, which is the empty response for a quiet disabled block. -/
theorem rdstatAnswersStatus : Obligations.RdstatAnswersStatus := by
  refine ⟨fun _ => decode_host_bareOpcode (by decide) rfl,
    fun s => ⟨_, exec_rdstat s, statusRsp_hasFields s, fun hq he => ?_⟩⟩
  rw [statusRsp_disabled hq he, emptyRsp_word]

/-- Settles O46: the two halves of `LAST` are its quotient and remainder by 65536. -/
theorem rdlastAnswersTheStamp : Obligations.RdlastAnswersTheStamp := by
  refine ⟨fun _ => decode_host_bareOpcode (by decide) rfl, fun s => ⟨_, exec_rdlast s, ?_⟩⟩
  rw [← time_high_toNat, ← time_low_toNat]
  exact rsp_cd_hasFields _ _

/-- Settles O47: each lane is a pair of window bytes, the older one in the high half. -/
theorem rdwinAnswersTheWindow : Obligations.RdwinAnswersTheWindow := by
  refine ⟨fun _ => decode_host_bareOpcode (by decide) rfl, fun s => ⟨_, exec_rdwin s, ?_⟩⟩
  rw [← bytePair_toNat, ← bytePair_toNat]
  exact rsp_cd_hasFields _ _

/-- Settles O49: the four lanes are the four bounds, with a zero status byte. -/
theorem rdcfgAnswersTheZone : Obligations.RdcfgAnswersTheZone :=
  ⟨fun _ => decode_host_bareOpcode (by decide) rfl, fun s => ⟨_, exec_rdcfg s, rsp_hasFields _⟩⟩

/-- Settles O50: lane `d` is the timeout byte, so it is 0 only where the byte is, which sound
registers exclude. -/
theorem rdtmoAnswersTheTimeout : Obligations.RdtmoAnswersTheTimeout := by
  refine ⟨fun _ => decode_host_bareOpcode (by decide) rfl,
    fun s => ⟨_, exec_rdtmo s, ?_, fun ⟨htmo, _⟩ hzero => htmo ?_⟩⟩
  · rw [← byte_setWidth_toNat]
    exact rsp_d_hasFields _
  · rw [laneD_rsp] at hzero
    have hnum : (s.tmo.setWidth 16).toNat = 0 := congrArg BitVec.toNat hzero
    rw [byte_setWidth_toNat] at hnum
    exact BitVec.eq_of_toNat_eq hnum

end Sys2Proof.Machine
end


section
/-! No exception (60_exceptions.md R240): an operation, the task of a step and the step itself each have
a next state, in every state. -/

namespace Sys2Proof.Machine
open Sys2Proof.Safety

/-- An `RXB` answers the state its byte leaves; a HOST operation goes on by `exec_host_frame`. -/
theorem exec_goesOn (i : Instr) (s : State) : GoesOn (exec i s) := by
  by_cases hi : ∃ b, i = .rxb b
  · obtain ⟨b, rfl⟩ := hi
    exact ⟨_, execRxb_eq b s⟩
  · obtain ⟨t, ht, -⟩ := exec_host_frame (fun b hb => hi ⟨b, hb⟩) s
    exact ⟨t, ht⟩

/-- A reserved opcode is no exception either: its answer `ILL` is a next state
(60_exceptions.md R242). -/
theorem runTask_goesOn (k : Task) (s : State) : GoesOn (runTask k s) := by
  cases k with
  | idle => exact ⟨s, rfl⟩
  | reset v => exact ⟨resetBlock v s, rfl⟩
  | word p =>
    rcases runTask_word_cases p s with ⟨i, hrun⟩ | hrun
    · rw [hrun]
      exact exec_goesOn i s
    · exact ⟨refuseIll s, hrun⟩

/-- Settles O11: a step runs the task it has taken, whichever that is. -/
theorem noOperationRaisesAnException : Obligations.NoOperationRaisesAnException :=
  ⟨exec_goesOn, fun s => runTask_goesOn (takeInput (serialise s)).1 (takeInput (serialise s)).2⟩

end Sys2Proof.Machine
end


section
/-! The reset input (70_reset_and_hazards.md, section 1): what it leaves in each register, whatever the
state before. -/

namespace Sys2Proof.Machine
open Sys2Proof.Safety

/-- The buffer after reset lists no byte, so every index reads as 00 (70_reset_and_hazards.md R260). -/
theorem resetBlock_buf_read (v : Bool) (s : State) (a : Nat) : (resetBlock v s).buf.read a = 0 := rfl

theorem resetBlock_tgt (v : Bool) (s : State) (i : Nat) (hi : i < 3) :
    (resetBlock v s).tgt[i] = Target.reset := by
  have htgt : (resetBlock v s).tgt = Vector.replicate 3 Target.reset := rfl
  simp only [htgt, Vector.getElem_replicate]

/-- A reset ends in `cfgload()` with a zeroed slot, so the configuration is what that slot loads as. -/
theorem resetBlock_loaded (v : Bool) (s : State) : LoadedFromSlot (resetBlock v s) :=
  cfgload_loaded _

theorem resetBlock_tmo (v : Bool) (s : State) : (resetBlock v s).tmo = Config.defaultTimeout := by
  obtain ⟨htmo, -⟩ := resetBlock_loaded v s
  exact htmo rfl

/-- The default zone (70_reset_and_hazards.md R261): the byte 0 is -12800 mm, so each lower bound is
clamped and each upper bound, which does not lie above it, becomes 6000. -/
theorem resetBlock_zone (v : Bool) (s : State) :
    (resetBlock v s).x1.toInt = -6000 ∧ (resetBlock v s).x2.toInt = 6000
    ∧ (resetBlock v s).y1.toInt = 0 ∧ (resetBlock v s).y2.toInt = 6000 := by
  have hload := cfgload_toInt { s with slot := #v[0, 0, 0, 0, 0] }
  simp only [loadSlot_zero] at hload
  exact hload

/-- Settles O9: the registers a reset clears hold by its definition, the configuration is that of the
zeroed slot. -/
theorem resetInputWritesEveryRegister : Obligations.ResetInputWritesEveryRegister := by
  intro s v rest h
  obtain ⟨hx1, hx2, hy1, hy2⟩ := resetBlock_zone v { s with inp := rest }
  exact ⟨_, step_reset h, rfl, resetBlock_buf_read v _, rfl, rfl, resetBlock_tgt v _, rfl, rfl, rfl,
    rfl, resetBlock_tmo v _, hx1, hx2, hy1, hy2, resetBlock_loaded v _⟩

end Sys2Proof.Machine
end


section
/-! Decoding and encoding (30_encoding.md, sections 1, 4, 5 and 7): the word of an operation decodes to
it, and a word that decodes to an operation agrees with the operation's word on the named bits. -/

namespace Sys2Proof.Machine
open Sys2Proof.Safety

/-- The word of an operation decodes to that operation (30_encoding.md R100). -/
theorem decode_encode (i : Instr) : decode (encode i) = .ok i := by
  cases i with
  | rxb => rfl
  | nop | rdstat | rdwin | rdlast | rdcfg | rdtmo | zdef | cfgld | cfgsv => rfl
  | qpres | rdbuf | rdtgt | sett | setd | setz | slotw | slotr => simp [encode, decode, decodeHost]

/-! ### Named bits -/

/-- Words that agree on the named bits decode alike (30_encoding.md R119). -/
theorem decode_eq_of_sameNamedBits {p q : PortWord} (h : SameNamedBits p q) :
    decode p = decode q := by
  cases p with
  | rx b =>
    cases q with
    | rx b' => exact congrArg (fun x => decode (.rx x)) h
    | host w => exact h.elim
  | host v =>
    cases q with
    | rx b => exact h.elim
    | host w =>
      obtain ⟨htop, hab, hc, hd, hlow⟩ := h
      rw [← htop] at hab hc hd hlow
      exact (unusedOperandBitsAreIgnored v w htop (fun hop => hab (List.mem_singleton.mp hop))
        hc hd hlow).1

/-- A word agrees with the word of its opcode when it has the lanes that the opcode names. -/
theorem sameNamedBits_hostWord {w : Word72} {op : Byte} {a b c d : Lane}
    (htop : (topByte w).toNat = op.toNat)
    (hab : op.toNat = 0x0B → laneA w = a ∧ laneB w = b)
    (hc : op.toNat ∈ [0x0A, 0x0B, 0x0F, 0x10] → laneC w = c)
    (hd : op.toNat ∈ [0x01, 0x04, 0x05, 0x09, 0x0A, 0x0B] → laneD w = d)
    (hlow : op.toNat = 0x0F → (laneD w).toNat % 256 = d.toNat % 256) :
    SameNamedBits (.host w) (.host (hostWord op a b c d)) := by
  show _ ∧ _
  rw [topByte_hostWord, laneA_hostWord, laneB_hostWord, laneC_hostWord, laneD_hostWord]
  exact ⟨BitVec.eq_of_toNat_eq htop, hab, hc, hd, hlow⟩

theorem sameNamedBits_bare {w : Word72} {op : Byte} (htop : (topByte w).toNat = op.toNat)
    (hop : op.toNat ∈ bareOpcodes) : SameNamedBits (.host w) (.host (hostWord op 0 0 0 0)) := by
  have hnone : ∀ n ∈ bareOpcodes, n ≠ 0x0B ∧ n ∉ [0x0A, 0x0B, 0x0F, 0x10]
      ∧ n ∉ [0x01, 0x04, 0x05, 0x09, 0x0A, 0x0B] ∧ n ≠ 0x0F := by decide
  obtain ⟨hab, hc, hd, hlow⟩ := hnone _ hop
  exact sameNamedBits_hostWord htop (absurd · hab) (absurd · hc) (absurd · hd) (absurd · hlow)

theorem sameNamedBits_laneD {w : Word72} {op : Byte} (htop : (topByte w).toNat = op.toNat)
    (hop : op.toNat ∈ laneDOpcodes) :
    SameNamedBits (.host w) (.host (hostWord op 0 0 0 (laneD w))) := by
  have hother : ∀ n ∈ laneDOpcodes, n ≠ 0x0B ∧ n ∉ [0x0A, 0x0B, 0x0F, 0x10] := by decide
  obtain ⟨hab, hc⟩ := hother _ hop
  exact sameNamedBits_hostWord htop (absurd · hab) (absurd · hc) (fun _ => rfl) (fun _ => rfl)

/-- The lane that carries a data byte agrees with the byte widened on `d[7:0]` (30_encoding.md R102). -/
theorem laneLow_widened (d : Lane) : d.toNat % 256 = ((laneLow d).setWidth 16).toNat % 256 :=
  laneLow_eq_iff.mp (laneLow_setWidth (laneLow d)).symm

/-- A HOST word that decodes to an operation agrees with the word of that operation: one case per
opcode of the decoder. -/
theorem sameNamedBits_of_decodeHost {w : Word72} {i : Instr} (h : decode (.host w) = .ok i) :
    SameNamedBits (.host w) (encode i) := by
  rw [decode] at h
  unfold decodeHost at h
  split at h
  case h_1 hop | h_3 hop | h_4 hop | h_7 hop | h_8 hop | h_9 hop | h_13 hop | h_14 hop | h_15 hop =>
    cases h
    exact sameNamedBits_bare hop (by decide)
  case h_2 hop | h_5 hop | h_6 hop | h_10 hop =>
    cases h
    exact sameNamedBits_laneD hop (by decide)
  case h_11 hop =>
    cases h
    exact sameNamedBits_hostWord hop (absurd · (by decide)) (fun _ => rfl) (fun _ => rfl)
      (fun _ => rfl)
  case h_12 hop =>
    cases h
    exact sameNamedBits_hostWord hop (fun _ => ⟨rfl, rfl⟩) (fun _ => rfl) (fun _ => rfl)
      (fun _ => rfl)
  case h_16 hop =>
    cases h
    exact sameNamedBits_hostWord hop (absurd · (by decide)) (fun _ => rfl) (absurd · (by decide))
      (fun _ => laneLow_widened (laneD w))
  case h_17 hop =>
    cases h
    exact sameNamedBits_hostWord hop (absurd · (by decide)) (fun _ => rfl) (absurd · (by decide))
      (absurd · (by decide))
  case h_18 => cases h

/-- Settles O1: an operation's word decodes to it, words with the same named bits decode alike, and the
decoder reads nothing but the named bits. -/
theorem decodeAndEncodeAgree : Obligations.DecodeAndEncodeAgree := by
  refine ⟨decode_encode, fun i p => ⟨fun h => ?_, fun h => ?_⟩⟩
  · cases p with
    | rx b => cases h; rfl
    | host w => exact sameNamedBits_of_decodeHost h
  · exact (decode_eq_of_sameNamedBits h).trans (decode_encode i)

end Sys2Proof.Machine
end


section
/-! What every step keeps (10_state.md): the induction step of an invariant, packaged once, and the four
invariants of the buffer, the target file, the configuration and the disabled block. -/

namespace Sys2Proof.Machine
open Sys2Proof.Safety

/-! ### How a step keeps a predicate -/

/-- A predicate that does not read the ports (the waiting inputs, the sampled time, the response and the
arbiter's counter) is kept by every step if resets establish it and operations keep it. -/
theorem step_keeps {P : State → Prop}
    (hports : ∀ u i n r a, P u → P { u with inp := i, now := n, rsp := r, arb := a })
    (hreset : ∀ v u, P (resetBlock v u)) (hexec : ∀ i u u', P u → exec i u = .next u' → P u')
    {s t : State} (hs : P s) (h : step s = .next t) : P t := by
  rcases step_cases_by_input s with ⟨v, rest, -, hrun⟩ | hrun | ⟨p, r, n, a, hrun⟩
  · rw [hrun] at h
    cases h
    exact hreset v _
  · rw [hrun] at h
    cases h
    exact hs
  · have hu : P { s with inp := r, now := n, arb := a } := hports s r n s.rsp a hs
    rw [hrun] at h
    rcases runTask_word_cases p { s with inp := r, now := n, arb := a } with ⟨i, hi⟩ | hill
    · exact hexec i _ t hu (hi.symm.trans h)
    · rw [hill, refuseIll_eq] at h
      cases h
      exact hports s r n (some illWord) a hs

/-- The two states agree on the assembler, the target file, `CNT`, `LAST` and `EN`, the registers that
no HOST operation reaches (20_memory.md R73). -/
def SameDetector (s t : State) : Prop :=
  t = { s with tmo := t.tmo, x1 := t.x1, x2 := t.x2, y1 := t.y1, y2 := t.y2, slot := t.slot,
               now := t.now, inp := t.inp, rsp := t.rsp, arb := t.arb }

/-- A predicate on the registers that HOST operations do not reach is kept by every step if resets
establish it and received bytes keep it. -/
theorem step_keeps_of_receiveByte {P : State → Prop}
    (hsame : ∀ s t, SameDetector s t → P s → P t) (hreset : ∀ v u, P (resetBlock v u))
    (hbyte : ∀ b u, P u → P (receiveByte b u)) {s t : State} (hs : P s) (h : step s = .next t) :
    P t := by
  refine step_keeps (fun u i n r a hu => hsame u _ rfl hu) hreset (fun i u u' hu hi => ?_) hs h
  by_cases hrx : ∃ b, i = .rxb b
  · obtain ⟨b, rfl⟩ := hrx
    cases hi
    exact hsame (receiveByte b u) _ rfl (hbyte b u hu)
  · obtain ⟨t, ht, hframe⟩ := exec_host_frame (fun b hb => hrx ⟨b, hb⟩) u
    rw [ht] at hi
    cases hi
    refine hsame u _ ?_ hu
    rw [hframe]
    rfl

/-! ### A received byte, by what it completes -/

/-- A received byte is ignored, completes a header, completes a frame, or is appended or dropped
(40_frame_assembler.md R130). -/
theorem receiveByte_cases (b : Byte) (s : State) :
    (s.en = false ∧ receiveByte b s = s)
    ∨ (s.en = true ∧ CompletesHeader s b ∧ receiveByte b s = takeHeader (received b s))
    ∨ (s.en = true ∧ CompletesFrame s b ∧ receiveByte b s = completeFrame (received b s))
    ∨ (s.en = true ∧ ¬ CompletesHeader s b ∧ ¬ CompletesFrame s b
        ∧ receiveByte b s = received b s) := by
  cases he : s.en with
  | false => exact .inl ⟨rfl, receiveByte_disabled he⟩
  | true =>
    by_cases hh : CompletesHeader s b
    · exact .inr (.inl ⟨rfl, hh, receiveByte_header he hh⟩)
    · by_cases hf : CompletesFrame s b
      · exact .inr (.inr (.inl ⟨rfl, hf, receiveByte_frame he hf⟩))
      · exact .inr (.inr (.inr ⟨rfl, hh, hf, receiveByte_ordinary he hh hf⟩))

theorem receiveByte_en (b : Byte) (s : State) : (receiveByte b s).en = s.en := by
  rw [receiveByte_reach]

theorem received_len (b : Byte) (s : State) : (received b s).len.val = min (s.len.val + 1) 32 :=
  (appendByte_spec b (windowPush b s)).2.1

/-- The byte goes to `BUF[LEN]`, if that exists; every other byte of `BUF` stays. -/
theorem received_read (b : Byte) (s : State) (a : Nat) :
    (received b s).buf.read a = if a = s.len.val ∧ a < 32 then b else s.buf.read a :=
  (appendByte_spec b (windowPush b s)).2.2 a

theorem received_fstate (b : Byte) (s : State) : (received b s).fstate = s.fstate := by
  rw [received_eq]

/-! ### The message buffer -/

/-- The newest valid bytes of `BUF` are those of the window, until an append is dropped
(20_memory.md, section 2). -/
def NewestInWindow (s : State) : Prop :=
  s.len.val ≤ 31 → ∀ k, (h : k < 4) → k < s.len.val → s.buf.read (s.len.val - 1 - k) = s.w[3 - k]

/-- The appended byte is the newest of window and buffer; the older ones move back by one in both. -/
theorem newestInWindow_received {b : Byte} {s : State} (h : NewestInWindow s) :
    NewestInWindow (received b s) := by
  intro hlen k hk hlt
  have hadd := received_len b s
  have hw : (received b s).w[3 - k] = #v[s.w[1], s.w[2], s.w[3], b][3 - k] := by
    simp only [received_w]
  rw [hw, received_read]
  cases k with
  | zero => exact if_pos (by omega)
  | succ j =>
    rw [if_neg (by omega), show (received b s).len.val - 1 - (j + 1) = s.len.val - 1 - j by omega,
      h (by omega) j (by omega) (by omega)]
    have hj : j = 0 ∨ j = 1 ∨ j = 2 := by omega
    rcases hj with rfl | rfl | rfl <;> rfl

/-- After a header the four bytes of the window are the four of the buffer. -/
theorem newestInWindow_takeHeader {s : State} (h : headerSeen s = true) :
    NewestInWindow (takeHeader s) := by
  obtain ⟨hw0, hw1, hw2, hw3⟩ := (headerSeen_iff s).mp h
  obtain ⟨-, h0, h1, h2, h3, -⟩ := takeHeader_spec s
  intro _ k hk _
  have hk' : k = 0 ∨ k = 1 ∨ k = 2 ∨ k = 3 := by omega
  rcases hk' with rfl | rfl | rfl | rfl
  · exact h3.trans hw3.symm
  · exact h2.trans hw2.symm
  · exact h1.trans hw1.symm
  · exact h0.trans hw0.symm

theorem receiveByte_keeps_bufferSound {b : Byte} {s : State} (h : BufferSound s) :
    BufferSound (receiveByte b s) := by
  obtain ⟨hwf, hacc, hnew⟩ := h
  have hwf' : (received b s).buf.wf := appendByte_wf hwf
  rcases receiveByte_cases b s with ⟨-, hr⟩ | ⟨-, hh, hr⟩ | ⟨-, -, hr⟩ | ⟨-, -, -, hr⟩ <;> rw [hr]
  · exact ⟨hwf, hacc, hnew⟩
  · exact ⟨takeHeader_wf hwf', fun _ => le_rfl,
      newestInWindow_takeHeader ((headerSeen_received b s).mpr hh)⟩
  · rw [completeFrame_eq]
    exact ⟨hwf', nofun, fun _ k _ hk => absurd hk (Nat.not_lt_zero k)⟩
  · refine ⟨hwf', fun hf => ?_, newestInWindow_received hnew⟩
    rw [received_fstate] at hf
    have hlen := hacc hf
    have hlt := s.len.isLt
    rw [received_len]
    omega

theorem resetBlock_bufferSound (v : Bool) (s : State) : BufferSound (resetBlock v s) :=
  ⟨Memory.wf_empty, nofun, fun _ k _ hk => absurd hk (Nat.not_lt_zero k)⟩

theorem bufferSound_of_sameDetector {s t : State} (h : SameDetector s t) (hs : BufferSound s) :
    BufferSound t := by
  rw [h]
  exact hs

/-- Settles O57: a reset empties the buffer, and a byte keeps it sound whatever it completes. -/
theorem stepKeepsBufferSound : Obligations.StepKeepsBufferSound :=
  fun _ _ => step_keeps_of_receiveByte (fun _ _ => bufferSound_of_sameDetector)
    resetBlock_bufferSound (fun _ _ => receiveByte_keeps_bufferSound)

/-! ### The target file -/

theorem signMagnitude_range (lo hi : Byte) :
    -32767 ≤ signMagnitude lo hi ∧ signMagnitude lo hi ≤ 32767 := by
  have hlo := lo.isLt
  simp only [signMagnitude]
  split <;> omega

/-- What is decoded from a record is in range, and a target that may be flagged is present
(41_target_decoder.md R160). -/
theorem targetSound_of_decodedFrom {t : Target} {f : Nat → Byte} (h : DecodedFrom t f)
    (hzf : t.zf = true → 0 < t.dist.toNat) : TargetSound t := by
  obtain ⟨hx, hy, hspd, hdist⟩ := h
  have hxr := signMagnitude_range (f 0) (f 1)
  have hyr := signMagnitude_range (f 2) (f 3)
  have hsr := signMagnitude_range (f 4) (f 5)
  have hrd : rdist t.x.toInt t.y.toInt = t.dist.toNat := rdist_eq_iff.mpr hdist
  refine ⟨by omega, by omega, by omega, ?_, ?_, hdist, hzf⟩
  · rw [← hrd]
    exact rdist_lt (by omega) (by omega) (by omega) (by omega)
  · rw [← hrd]
    exact rdist_eq_zero_iff _ _

/-- A complete frame leaves a sound target file: in zone implies present. -/
theorem completeFrame_targetsSound (s : State) : TargetsSound (completeFrame s) := by
  rw [completeFrame_eq]
  refine ⟨fun i hi => ?_, flagCount_toNat _⟩
  exact targetSound_of_decodedFrom (frameTargets_decoded s i hi)
    fun hzf => ((frameTargets_zf_iff s i hi).mp hzf).1

theorem receiveByte_keeps_targetsSound {b : Byte} {s : State} (h : TargetsSound s) :
    TargetsSound (receiveByte b s) := by
  by_cases hf : s.en = true ∧ CompletesFrame s b
  · obtain ⟨he, hf⟩ := hf
    rw [receiveByte_frame he hf]
    exact completeFrame_targetsSound _
  · rw [receiveByte_eq_of_not_frame hf]
    exact h

theorem targetSound_reset : TargetSound Target.reset :=
  ⟨by decide, by decide, by decide, by decide, by decide, isNearestRoot_zero_iff.mpr rfl, nofun⟩

theorem resetBlock_targetsSound (v : Bool) (s : State) : TargetsSound (resetBlock v s) := by
  refine ⟨fun i hi => ?_, rfl⟩
  rw [resetBlock_tgt v s i hi]
  exact targetSound_reset

theorem targetsSound_of_sameDetector {s t : State} (h : SameDetector s t) (hs : TargetsSound s) :
    TargetsSound t := by
  rw [h]
  exact hs

/-- Settles O58: a reset leaves absent targets, and a byte writes decoded ones or none. -/
theorem stepKeepsTargetsSound : Obligations.StepKeepsTargetsSound :=
  fun _ _ => step_keeps_of_receiveByte (fun _ _ => targetsSound_of_sameDetector)
    resetBlock_targetsSound (fun _ _ => receiveByte_keeps_targetsSound)

/-! ### The working configuration -/

theorem exec_keeps_configSound {i : Instr} {s t : State} (hs : ConfigSound s)
    (h : exec i s = .next t) : ConfigSound t := by
  by_cases hrx : ∃ b, i = .rxb b
  · obtain ⟨b, rfl⟩ := hrx
    cases h
    rw [receiveByte_reach]
    exact hs
  · rcases exec_host_cases (fun b hb => hrx ⟨b, hb⟩) s with ⟨r, hi⟩ | ⟨v, hi⟩ | hi | ⟨v, hi⟩
    all_goals
      rw [hi] at h
      cases h
    · exact hs
    · exact configSound_of_loaded (persist_loaded v s)
    · exact configSound_of_loaded (cfgload_loaded s)
    · exact hs

/-- Settles O59: whatever writes the working registers loads them from the slot, and a load is sound. -/
theorem stepKeepsConfigurationSound : Obligations.StepKeepsConfigurationSound :=
  fun _ _ => step_keeps (fun _ _ _ _ _ hu => hu)
    (fun v u => configSound_of_loaded (resetBlock_loaded v u))
    (fun _ _ _ => exec_keeps_configSound)

/-! ### The disabled block -/

theorem receiveByte_keeps_disabledQuiet {b : Byte} {s : State} (h : DisabledQuiet s) :
    DisabledQuiet (receiveByte b s) := by
  intro he
  rw [receiveByte_en] at he
  rw [receiveByte_disabled he]
  exact h he

theorem resetBlock_disabledQuiet (v : Bool) (s : State) : DisabledQuiet (resetBlock v s) :=
  fun _ => ⟨rfl, rfl, rfl, rfl, rfl, rfl⟩

theorem disabledQuiet_of_sameDetector {s t : State} (h : SameDetector s t) (hs : DisabledQuiet s) :
    DisabledQuiet t := by
  rw [h]
  exact hs

/-- Settles O60: a reset clears what a disabled block must not hold, and a disabled block ignores every
byte. -/
theorem stepKeepsDisabledBlockQuiet : Obligations.StepKeepsDisabledBlockQuiet :=
  fun _ _ => step_keeps_of_receiveByte (fun _ _ => disabledQuiet_of_sameDetector)
    resetBlock_disabledQuiet (fun _ _ => receiveByte_keeps_disabledQuiet)

/-! ### The state after reset -/

/-- A reset with the strap at 1 keeps the state after reset. -/
theorem resetBlock_reset : resetBlock true State.reset = State.reset :=
  resetBlock_eq true State.reset

/-- Settles O56: the state after reset is one that the reset input leaves. -/
theorem resetStateIsSound : Obligations.ResetStateIsSound := by
  have hload : LoadedFromSlot State.reset := resetBlock_reset ▸ resetBlock_loaded true State.reset
  exact ⟨resetBlock_bufferSound true State.reset, resetBlock_targetsSound true State.reset,
    configSound_of_loaded hload, resetBlock_disabledQuiet true State.reset, hload⟩

end Sys2Proof.Machine
end


section
/-! What the label and the stale bytes of `BUF` decide (10_state.md R24, R38): nothing. One lemma for the
HOST operations, one per sub-step of `RXB`. -/

namespace Sys2Proof.Machine
open Sys2Proof.Safety

/-! ### HOST operations -/

/-- A HOST operation does the same with another buffer and another label, and keeps them, if `RDSTAT`
finds the same label and `RDBUF` the same valid byte. -/
theorem exec_host_setBufFstate {i : Instr} {s t : State} (m : Memory) (f : FState)
    (hi : ∀ b, i ≠ .rxb b) (hstat : i = .rdstat → f = s.fstate)
    (hread : ∀ k, i = .rdbuf k → k.toNat < s.len.val → m.read k.toNat = s.buf.read k.toNat)
    (h : exec i s = .next t) :
    exec i { s with buf := m, fstate := f } = .next { t with buf := m, fstate := f } := by
  cases i with
  | rxb b => exact absurd rfl (hi b)
  | rdstat => cases hstat rfl; cases h; rfl
  | rdbuf d =>
    rcases Nat.lt_or_ge d.toNat s.len.val with hd | hd
    · rw [exec_rdbuf_read hd, memRead_one, ← hread d rfl hd, ← memRead_one] at h
      cases h
      exact exec_rdbuf_read hd
    · rw [exec_rdbuf_refused hd] at h
      cases h
      exact exec_rdbuf_refused hd
  | rdtgt d =>
    rcases Nat.lt_or_ge d.toNat 3 with hd | hd
    · rw [exec_rdtgt_read hd] at h; cases h; exact exec_rdtgt_read hd
    · rw [exec_rdtgt_refused hd] at h; cases h; exact exec_rdtgt_refused hd
  | slotr c =>
    rcases Nat.lt_or_ge c.toNat 5 with hc | hc
    · rw [exec_slotr_read hc] at h; cases h; exact exec_slotr_read hc
    · rw [exec_slotr_refused hc] at h; cases h; exact exec_slotr_refused hc
  | slotw c d =>
    rcases Nat.lt_or_ge c.toNat 5 with hc | hc
    · rw [exec_slotw_write hc] at h; cases h; exact exec_slotw_write hc
    · rw [exec_slotw_refused hc] at h; cases h; exact exec_slotw_refused hc
  | nop | qpres | rdwin | rdlast | rdcfg | rdtmo | sett | setd | setz | zdef | cfgld | cfgsv =>
    cases h; rfl

/-- No HOST operation touches the buffer, its length or the label (20_memory.md R73). -/
theorem exec_host_keeps_buffer {i : Instr} {s t : State} (hi : ∀ b, i ≠ .rxb b)
    (h : exec i s = .next t) : t.buf = s.buf ∧ t.len = s.len ∧ t.fstate = s.fstate := by
  obtain ⟨u, hu, hframe⟩ := exec_host_frame hi s
  rw [hu] at h
  cases h
  rw [hframe]
  exact ⟨rfl, rfl, rfl⟩

/-! ### The label -/

theorem received_of_lt {b : Byte} {s : State} (h : s.len.val < 32) :
    received b s = { s with w := #v[s.w[1], s.w[2], s.w[3], b], buf := s.buf.write s.len.val b,
                            len := ⟨s.len.val + 1, by omega⟩ } := by
  rw [← memWrite_one]
  exact dif_pos h

theorem received_full {b : Byte} {s : State} (h : ¬ s.len.val < 32) :
    received b s = { s with w := #v[s.w[1], s.w[2], s.w[3], b] } :=
  dif_neg h

/-- Push and append do not read the label. -/
theorem received_setFstate (b : Byte) (s : State) (f : FState) :
    received b { s with fstate := f } = { received b s with fstate := f } := by
  by_cases h : s.len.val < 32
  · rw [received_of_lt h, received_of_lt (s := { s with fstate := f }) h]
  · rw [received_full h, received_full (s := { s with fstate := f }) h]

/-- A complete frame overwrites the label. -/
theorem completeFrame_setFstate (s : State) (f : FState) :
    completeFrame { s with fstate := f } = completeFrame s := by
  rw [completeFrame_eq, completeFrame_eq]
  rfl

/-- A received byte does the same under any label, up to the label. -/
theorem receiveByte_setFstate (b : Byte) (s : State) (f : FState) :
    receiveByte b { s with fstate := f }
      = { receiveByte b s with fstate := (receiveByte b { s with fstate := f }).fstate } := by
  rcases receiveByte_cases b s with ⟨he, hr⟩ | ⟨he, hh, hr⟩ | ⟨he, hf, hr⟩ | ⟨he, hh, hf, hr⟩
  · rw [hr, receiveByte_disabled (s := { s with fstate := f }) he]
  · rw [hr, receiveByte_header (s := { s with fstate := f }) he hh, ← received, received_setFstate]
    rfl
  · rw [hr, receiveByte_frame (s := { s with fstate := f }) he hf, ← received, received_setFstate,
      completeFrame_setFstate]
  · rw [hr, receiveByte_ordinary (s := { s with fstate := f }) he hh hf, ← received,
      received_setFstate]

/-- Settles O22: an `RXB` by `receiveByte_setFstate`, `RDSTAT` in its response alone, the other HOST
operations by `exec_host_setBufFstate`. -/
theorem labelDecidesNothing : Obligations.LabelDecidesNothing := by
  intro i s t f h
  by_cases hrx : ∃ b, i = .rxb b
  · obtain ⟨b, rfl⟩ := hrx
    cases h
    refine ⟨_, execRxb_eq b _, ?_, fun _ => rfl⟩
    exact congrArg noAnswer (receiveByte_setFstate b s f)
  · have hi : ∀ b, i ≠ .rxb b := fun b hb => hrx ⟨b, hb⟩
    by_cases hstat : i = .rdstat
    · subst hstat
      cases h
      exact ⟨_, exec_rdstat _, rfl, fun hne => absurd rfl hne⟩
    · obtain ⟨hbuf, -, -⟩ := exec_host_keeps_buffer hi h
      refine ⟨_, exec_host_setBufFstate s.buf f hi (absurd · hstat) (fun _ _ _ => rfl) h, ?_,
        fun _ => rfl⟩
      rw [← hbuf]
      rfl

/-! ### Stale bytes -/

/-- Push and append keep what two states share: the new byte is stored at the same index. -/
theorem sameButStale_received {b : Byte} {s s' : State} (h : SameButStale s s') :
    SameButStale (received b s) (received b s') := by
  obtain ⟨heq, hread⟩ := h
  have hlen : s'.len = s.len := by rw [heq]
  have hlen' : (received b s').len = (received b s).len :=
    Fin.ext (by rw [received_len, received_len, hlen])
  refine ⟨?_, fun k hk => ?_⟩
  · rw [received_eq b s', received_eq b s, hlen', heq]
  · rw [received_len] at hk
    rw [received_read, received_read, hlen]
    by_cases hnew : k = s.len.val ∧ k < 32
    · rw [if_pos hnew, if_pos hnew]
    · rw [if_neg hnew, if_neg hnew]
      exact hread k (by omega)

/-- A header match leaves four valid bytes, the header. -/
theorem sameButStale_takeHeader {s s' : State} (h : SameButStale s s') :
    SameButStale (takeHeader s) (takeHeader s') := by
  obtain ⟨heq, -⟩ := h
  obtain ⟨-, h0, h1, h2, h3, -⟩ := takeHeader_spec s
  obtain ⟨hs', h0', h1', h2', h3', -⟩ := takeHeader_spec s'
  refine ⟨?_, fun k hk => ?_⟩
  · rw [hs', heq]
    rfl
  · have hk' : k = 0 ∨ k = 1 ∨ k = 2 ∨ k = 3 := by
      change k < 4 at hk
      omega
    rcases hk' with rfl | rfl | rfl | rfl
    · exact h0'.trans h0.symm
    · exact h1'.trans h1.symm
    · exact h2'.trans h2.symm
    · exact h3'.trans h3.symm

/-- One target of a frame depends on the six field bytes of its record and on the zone. -/
theorem flagged_decodeSlot_congr {s s' : State} {i : Nat} (h1 : s.x1 = s'.x1) (h2 : s.x2 = s'.x2)
    (h3 : s.y1 = s'.y1) (h4 : s.y2 = s'.y2)
    (hread : ∀ k, k < 6 → s.buf.read (4 + 8 * i + k) = s'.buf.read (4 + 8 * i + k)) (o o' : Target) :
    flagged s (decodeSlot s.buf i o) = flagged s' (decodeSlot s'.buf i o') := by
  rw [decodeSlot_congr (o' := o') hread, flagged, activeFlag_congr h1 h2 h3 h4]
  rfl

/-- The target file of a frame depends on the 18 field bytes and on the zone
(40_frame_assembler.md, section 5). -/
theorem frameTargets_congr {s s' : State} (h1 : s.x1 = s'.x1) (h2 : s.x2 = s'.x2)
    (h3 : s.y1 = s'.y1) (h4 : s.y2 = s'.y2)
    (hread : ∀ i k, i < 3 → k < 6 → s.buf.read (4 + 8 * i + k) = s'.buf.read (4 + 8 * i + k)) :
    frameTargets s = frameTargets s' := by
  refine Vector.ext fun i hi => ?_
  rw [frameTargets_get s i hi, frameTargets_get s' i hi]
  exact flagged_decodeSlot_congr h1 h2 h3 h4 (fun k hk => hread i k hi hk) _ _

/-- A complete frame reads no byte beyond the records, and leaves no valid byte. -/
theorem sameButStale_completeFrame {s s' : State} (h : SameButStale s s') (hlen : 28 ≤ s.len.val) :
    SameButStale (completeFrame s) (completeFrame s') := by
  obtain ⟨heq, hread⟩ := h
  have hframe : frameTargets s' = frameTargets s :=
    frameTargets_congr (by rw [heq]) (by rw [heq]) (by rw [heq]) (by rw [heq])
      fun i k _ _ => hread _ (by omega)
  rw [completeFrame_eq s', hframe, heq, completeFrame_eq s]
  exact ⟨rfl, fun k hk => absurd hk (Nat.not_lt_zero k)⟩

theorem sameButStale_receiveByte {b : Byte} {s s' : State} (h : SameButStale s s') :
    SameButStale (receiveByte b s) (receiveByte b s') := by
  have hrec : SameButStale (received b s) (received b s') := sameButStale_received h
  have heq : s' = { s with buf := s'.buf } := h.1
  have hen : s'.en = s.en := by rw [heq]
  have hheader : CompletesHeader s' b ↔ CompletesHeader s b := by rw [heq]; exact Iff.rfl
  have hframe : CompletesFrame s' b ↔ CompletesFrame s b := by rw [heq]; exact Iff.rfl
  rcases receiveByte_cases b s with ⟨he, hr⟩ | ⟨he, hh, hr⟩ | ⟨he, hf, hr⟩ | ⟨he, hh, hf, hr⟩
  · rw [hr, receiveByte_disabled (hen.trans he)]
    exact h
  · rw [hr, receiveByte_header (hen.trans he) (hheader.mpr hh)]
    exact sameButStale_takeHeader hrec
  · rw [hr, receiveByte_frame (hen.trans he) (hframe.mpr hf)]
    refine sameButStale_completeFrame hrec ?_
    rw [received_len, hf.1]
    decide
  · rw [hr, receiveByte_ordinary (hen.trans he) (mt hheader.mp hh) (mt hframe.mp hf)]
    exact hrec

/-- Settles O23: an `RXB` keeps the relation by `sameButStale_receiveByte`, a HOST operation by
`exec_host_setBufFstate`, as `RDBUF` refuses stale indices. -/
theorem staleBytesReachNoOutput : Obligations.StaleBytesReachNoOutput := by
  intro i s s' t hsame h
  by_cases hrx : ∃ b, i = .rxb b
  · obtain ⟨b, rfl⟩ := hrx
    cases h
    obtain ⟨heq, hread⟩ := sameButStale_receiveByte (b := b) hsame
    refine ⟨_, execRxb_eq b s', ?_, hread⟩
    rw [heq]
    rfl
  · have hi : ∀ b, i ≠ .rxb b := fun b hb => hrx ⟨b, hb⟩
    obtain ⟨heq, hread⟩ := hsame
    obtain ⟨hbuf, hlen, hfstate⟩ := exec_host_keeps_buffer hi h
    have hexec := exec_host_setBufFstate s'.buf s.fstate hi (fun _ => rfl)
      (fun k _ hk => hread k.toNat hk) h
    refine ⟨{ t with buf := s'.buf, fstate := s.fstate }, ?_, ?_, fun k hk => ?_⟩
    · rw [heq]
      exact hexec
    · rw [← hfstate]
    · rw [hbuf]
      exact hread k (hlen ▸ hk)

end Sys2Proof.Machine
end


section
/-! The transition table of the Frame Assembler (40_frame_assembler.md, section 6), what a completed frame
depends on, and runs of received bytes: how soon frames can follow each other, and a whole frame. -/

namespace Sys2Proof.Machine
open Sys2Proof.Safety

/-! ### One byte -/

/-- Settles O15: a header match after push and append, `takeHeader_spec`. -/
theorem headerRestartsTheBuffer : Obligations.HeaderRestartsTheBuffer := by
  intro b s he hh
  obtain ⟨heq, h0, h1, h2, h3, hother⟩ := takeHeader_spec (received b s)
  have hexec : exec (.rxb b) s = .next { takeHeader (received b s) with rsp := none } := by
    rw [execRxb_eq, receiveByte_header he hh, received]
  refine ⟨_, hexec, ?_, h0, h1, h2, h3, fun a ha => (hother a ha).trans (received_read b s a)⟩
  obtain ⟨hw1, hw2, hw3, hb⟩ := hh
  rw [heq, received_eq, hw1, hw2, hw3, hb]

/-- Settles O16: push and append, nothing more. -/
theorem ordinaryByteIsAppendedOrDropped : Obligations.OrdinaryByteIsAppendedOrDropped := by
  intro b s he hh hf
  have hexec : exec (.rxb b) s = .next { received b s with rsp := none } := by
    rw [execRxb_eq, receiveByte_ordinary he hh hf, received]
  refine ⟨_, hexec, ?_, received_len b s, received_read b s⟩
  rw [received_eq]

/-- Settles O18: the numbers of a target by `decodeSlot_congr`, with the zone the whole target file by
`frameTargets_congr`. -/
theorem frameOutputDependsOnFieldBytesOnly : Obligations.FrameOutputDependsOnFieldBytesOnly := by
  intro b s s' t t' he he' hf hf' hread h h'
  rw [exec_rxb_frame he hf] at h
  rw [exec_rxb_frame he' hf'] at h'
  cases h
  cases h'
  have hrec : ∀ i k, i < 3 → k < 6 →
      (received b s).buf.read (4 + 8 * i + k) = (received b s').buf.read (4 + 8 * i + k) := by
    intro i k hi hk
    rw [received_read_of_frame hf (by omega), received_read_of_frame hf' (by omega)]
    exact hread i k hi hk
  refine ⟨fun i hi => ?_, fun h1 h2 h3 h4 => ?_⟩
  · simp only [frameTargets_get _ i hi]
    rw [decodeSlot_congr (o' := (received b s').tgt[i]) fun k hk => hrec i k hi hk]
    exact ⟨rfl, rfl, rfl, rfl⟩
  · have htgt : frameTargets (received b s) = frameTargets (received b s') := by
      refine frameTargets_congr ?_ ?_ ?_ ?_ hrec <;> rw [received_eq b s, received_eq b s']
      exacts [h1, h2, h3, h4]
    refine ⟨htgt, congrArg (fun v => BitVec.ofNat 2 (flagCount v)) htgt, fun hnow hlast => ?_⟩
    show (if _ then s.now else s.last) = if _ then s'.now else s'.last
    rw [htgt, hnow, hlast]

/-- Settles O19: no number lies between the bounds of an inverted zone, so no flag is set. -/
theorem invertedZoneActivatesNoTarget : Obligations.InvertedZoneActivatesNoTarget := by
  intro b s he hf hzone
  have hflag : ∀ i, (hi : i < 3) → (frameTargets (received b s))[i].zf = false := by
    intro i hi
    rw [Bool.eq_false_iff, ne_eq, frameTargets_zf_iff _ i hi, inZone_received, InZone]
    omega
  have hcount : flagCount (frameTargets (received b s)) = 0 := by
    rw [flagCount, hflag 0 (by decide), hflag 1 (by decide), hflag 2 (by decide)]
    rfl
  refine ⟨_, exec_rxb_frame he hf, hflag, ?_, ?_⟩
  · rw [hcount]
    rfl
  · rw [hcount]
    rfl

/-! ### Runs of bytes -/

theorem feed_cons {b : Byte} {l : List Byte} {s u : State} (h : exec (.rxb b) s = .next u) :
    feed (b :: l) s = feed l u := by
  rw [feed, h]

theorem feed_append (l l' : List Byte) (s : State) {t : State} (h : feed l s = .next t) :
    feed (l ++ l') s = feed l' t := by
  induction l generalizing s with
  | nil => cases h; rfl
  | cons b l ih => exact ih _ h

/-! ### Two completions (40_frame_assembler.md, section 4) -/

/-- At most `n` bytes have been received since a frame was complete: `LEN` counts them, and the last
footer byte is still where it hinders a header. -/
def SinceFrame (n : Nat) (s : State) : Prop :=
  s.len.val ≤ n ∧ (s.en = true → ∀ h : n < 3, s.w[3 - n] = 0xCC)

/-- The footer byte moves towards the old end of the window, and a header, which sets `LEN` to 4, needs
four bytes after it. -/
theorem sinceFrame_receiveByte {n : Nat} {b : Byte} {s : State} (h : SinceFrame n s) (hn : n < 29) :
    SinceFrame (n + 1) (receiveByte b s)
    ∧ (receiveByte b s).tgt = s.tgt ∧ (receiveByte b s).cnt = s.cnt
    ∧ (receiveByte b s).last = s.last := by
  obtain ⟨hlen, hfoot⟩ := h
  have hframe : ¬ CompletesFrame s b := fun hf => by
    have h29 := hf.1
    omega
  refine ⟨⟨?_, fun he h3 => ?_⟩, ?_⟩
  · rcases receiveByte_cases b s with ⟨-, hr⟩ | ⟨he, hh, hr⟩ | ⟨-, hf, -⟩ | ⟨-, -, -, hr⟩
    · rw [hr]
      omega
    · obtain ⟨hw1, hw2, hw3, -⟩ := hh
      have hn3 : ¬ n < 3 := fun hlt => by
        have hcc := hfoot he hlt
        have hcases : n = 0 ∨ n = 1 ∨ n = 2 := by omega
        rcases hcases with rfl | rfl | rfl
        · exact absurd (hw3.symm.trans hcc) (by decide)
        · exact absurd (hw2.symm.trans hcc) (by decide)
        · exact absurd (hw1.symm.trans hcc) (by decide)
      rw [hr]
      show 4 ≤ n + 1
      omega
    · exact absurd hf hframe
    · rw [hr, received_len]
      omega
  · rw [receiveByte_en] at he
    have hcc := hfoot he (by omega)
    have hcases : n = 0 ∨ n = 1 := by omega
    simp only [receiveByte_w he]
    rcases hcases with rfl | rfl <;> exact hcc
  · rw [receiveByte_eq_of_not_frame fun hf => hframe hf.2]
    exact ⟨rfl, rfl, rfl⟩

theorem feed_sinceFrame {l : List Byte} {n : Nat} {s : State} (h : SinceFrame n s)
    (hl : n + l.length < 30) :
    ∃ t, feed l s = .next t ∧ t.len.val ≤ n + l.length
      ∧ t.tgt = s.tgt ∧ t.cnt = s.cnt ∧ t.last = s.last := by
  induction l generalizing n s with
  | nil => exact ⟨s, rfl, h.1, rfl, rfl, rfl⟩
  | cons b l ih =>
    rw [List.length_cons] at hl
    obtain ⟨hstep, htgt, hcnt, hlast⟩ := sinceFrame_receiveByte (b := b) h (by omega)
    obtain ⟨t, ht, hlen, htgt', hcnt', hlast'⟩ :=
      ih (s := { receiveByte b s with rsp := none }) hstep (by omega)
    refine ⟨t, ht, ?_, htgt'.trans htgt, hcnt'.trans hcnt, hlast'.trans hlast⟩
    rw [List.length_cons]
    omega

/-- Settles O24: a completed frame is followed by `SinceFrame 0`. -/
theorem completionsAreThirtyBytesApart : Obligations.CompletionsAreThirtyBytesApart := by
  intro l s _ hw3 hlen hl
  have hstart : SinceFrame 0 s := ⟨hlen.le, fun _ _ => hw3⟩
  have hrun := feed_sinceFrame hstart (l := l) (by omega)
  rwa [Nat.zero_add] at hrun

/-! ### A whole frame -/

/-- `u` is `s` with another assembler and no response. -/
def SameButAssembler (s u : State) : Prop :=
  u = { s with w := u.w, buf := u.buf, len := u.len, fstate := u.fstate, rsp := none }

theorem sameButAssembler_trans {s u v : State} (h : SameButAssembler s u)
    (h' : SameButAssembler u v) : SameButAssembler s v := by
  rw [SameButAssembler, h', h]

theorem sameButAssembler_receiveByte {b : Byte} {s : State} (h : ¬ CompletesFrame s b) :
    SameButAssembler s { receiveByte b s with rsp := none } := by
  rw [SameButAssembler, receiveByte_eq_of_not_frame fun hf => h hf.2]

/-- `u` is `s` after the bytes `p`, the last header of which is at the front: `BUF` holds them, and the
window the last four. -/
def Assembled (s : State) (p : List Byte) (u : State) : Prop :=
  SameButAssembler s u ∧ 4 ≤ p.length ∧ u.len.val = p.length
  ∧ (∀ k, (h : k < 4) → p[p.length - 4 + k]? = some u.w[k])
  ∧ ∀ a, a < p.length → p[a]? = some (u.buf.read a)

/-- A byte other than `CC` shifts into the window and completes no frame. -/
theorem exec_rxb_of_ne_footer {b : Byte} (hb : b ≠ 0xCC) {s : State} (he : s.en = true) :
    ∃ u, exec (.rxb b) s = .next u ∧ SameButAssembler s u ∧ u.en = true
      ∧ u.w = #v[s.w[1], s.w[2], s.w[3], b] :=
  ⟨_, execRxb_eq b s, sameButAssembler_receiveByte fun hf => hb hf.2.2,
    (receiveByte_en b s).trans he, receiveByte_w he⟩

/-- The first three header bytes only shift, whatever came before them. -/
theorem feed_headerPrefix {s : State} (he : s.en = true) :
    ∃ u, feed [0xAA, 0xFF, 0x03] s = .next u ∧ SameButAssembler s u ∧ CompletesHeader u 0x00 := by
  obtain ⟨u, hu, hsame, heu, hw⟩ := exec_rxb_of_ne_footer (b := 0xAA) (by decide) he
  obtain ⟨u', hu', hsame', heu', hw'⟩ := exec_rxb_of_ne_footer (b := 0xFF) (by decide) heu
  obtain ⟨u'', hu'', hsame'', -, hw''⟩ := exec_rxb_of_ne_footer (b := 0x03) (by decide) heu'
  refine ⟨u'', ?_, sameButAssembler_trans hsame (sameButAssembler_trans hsame' hsame''), ?_⟩
  · rw [feed_cons hu, feed_cons hu', feed_cons hu'']
    rfl
  · simp [CompletesHeader, hw'', hw', hw]

/-- The fourth header byte restarts the buffer. -/
theorem assembled_of_header {s u : State} (he : s.en = true) (hsame : SameButAssembler s u)
    (hh : CompletesHeader u 0x00) :
    Assembled s [0xAA, 0xFF, 0x03, 0x00] { receiveByte 0x00 u with rsp := none } := by
  have heu : u.en = true := by rw [hsame]; exact he
  obtain ⟨heq, h0, h1, h2, h3, -⟩ := takeHeader_spec (received 0x00 u)
  have hr : receiveByte 0x00 u = takeHeader (received 0x00 u) := receiveByte_header heu hh
  have hnf : ¬ CompletesFrame u 0x00 := fun hf => absurd hf.2.2 (by decide)
  obtain ⟨hw1, hw2, hw3, -⟩ := hh
  refine ⟨sameButAssembler_trans hsame (sameButAssembler_receiveByte hnf), le_rfl, ?_,
    fun k hk => ?_, fun a ha => ?_⟩
  · simp only [hr]
    rw [heq]
    rfl
  · have hk' : k = 0 ∨ k = 1 ∨ k = 2 ∨ k = 3 := by omega
    simp only [receiveByte_w heu, hw1, hw2, hw3]
    rcases hk' with rfl | rfl | rfl | rfl <;> rfl
  · have ha' : a = 0 ∨ a = 1 ∨ a = 2 ∨ a = 3 := by
      change a < 4 at ha
      omega
    simp only [hr]
    rcases ha' with rfl | rfl | rfl | rfl
    · exact congrArg some h0.symm
    · exact congrArg some h1.symm
    · exact congrArg some h2.symm
    · exact congrArg some h3.symm

/-- After the four header bytes the buffer holds them, whatever came before. -/
theorem feed_header {s : State} (he : s.en = true) :
    ∃ u, feed [0xAA, 0xFF, 0x03, 0x00] s = .next u ∧ Assembled s [0xAA, 0xFF, 0x03, 0x00] u := by
  obtain ⟨u, hu, hsame, hh⟩ := feed_headerPrefix he
  exact ⟨_, feed_append [0xAA, 0xFF, 0x03] [0x00] s hu, assembled_of_header he hsame hh⟩

/-- A byte that completes no header is stored and shifted in, until the frame is full. -/
theorem assembled_receiveByte {s u : State} {p : List Byte} {b : Byte} (he : s.en = true)
    (h : Assembled s p u) (hlen : p.length < 29) (hh : ¬ HeaderAt (p ++ [b]) (p.length - 3)) :
    Assembled s (p ++ [b]) { receiveByte b u with rsp := none } := by
  obtain ⟨hsame, h4, hulen, hw, hread⟩ := h
  have hold : ∀ a, a < p.length → (p ++ [b])[a]? = p[a]? := fun a ha => List.getElem?_append_left ha
  have hnew : (p ++ [b])[p.length]? = some b := List.getElem?_concat_length
  have heu : u.en = true := by rw [hsame]; exact he
  have hshift : ∀ j, (h : j < 3) → (p ++ [b])[p.length - 3 + j]? = some u.w[j + 1] := by
    intro j hj
    rw [hold _ (by omega), ← hw (j + 1) (by omega)]
    congr 1
    omega
  have hnh : ¬ CompletesHeader u b := by
    rintro ⟨h1, h2, h3, rfl⟩
    refine hh ⟨(hshift 0 (by decide)).trans (congrArg some h1),
      (hshift 1 (by decide)).trans (congrArg some h2),
      (hshift 2 (by decide)).trans (congrArg some h3), ?_⟩
    rw [show p.length - 3 + 3 = p.length by omega, hnew]
  have hnf : ¬ CompletesFrame u b := fun hf => by
    have h29 := hf.1
    omega
  have hr : receiveByte b u = received b u := receiveByte_ordinary heu hnh hnf
  refine ⟨sameButAssembler_trans hsame (sameButAssembler_receiveByte hnf), ?_, ?_, fun k hk => ?_,
    fun a ha => ?_⟩
  · rw [List.length_append]
    omega
  · show (receiveByte b u).len.val = _
    rw [hr, received_len, hulen, List.length_append, List.length_singleton]
    omega
  · simp only [receiveByte_w heu, List.length_append, List.length_singleton]
    by_cases hk3 : k = 3
    · subst hk3
      rw [show p.length + 1 - 4 + 3 = p.length by omega, hnew]
      rfl
    · rw [show p.length + 1 - 4 + k = p.length - 3 + k by omega, hshift k (by omega)]
      have hk' : k = 0 ∨ k = 1 ∨ k = 2 := by omega
      rcases hk' with rfl | rfl | rfl <;> rfl
  · rw [List.length_append, List.length_singleton] at ha
    simp only [hr, received_read, hulen]
    by_cases hlast : a = p.length
    · rw [if_pos ⟨hlast, by omega⟩, hlast, hnew]
    · rw [if_neg fun hc => hlast hc.1, hold a (by omega), hread a (by omega)]

theorem headerAt_append {l : List Byte} {k : Nat} (l' : List Byte) (h : HeaderAt l k) :
    HeaderAt (l ++ l') k := by
  have hmono : ∀ {i : Nat} {x : Byte}, l[i]? = some x → (l ++ l')[i]? = some x := by
    intro i x hx
    obtain ⟨hi, -⟩ := List.getElem?_eq_some_iff.mp hx
    rw [List.getElem?_append_left hi, hx]
  obtain ⟨h0, h1, h2, h3⟩ := h
  exact ⟨hmono h0, hmono h1, hmono h2, hmono h3⟩

/-- Without a second header the bytes of a frame gather until it is full but for one byte. -/
theorem feed_assembled {s u : State} {p l : List Byte} (he : s.en = true) (h : Assembled s p u)
    (hlen : p.length + l.length ≤ 29) (hh : ∀ k, 1 ≤ k → ¬ HeaderAt (p ++ l) k) :
    ∃ t, feed l u = .next t ∧ Assembled s (p ++ l) t := by
  induction l generalizing p u with
  | nil => exact ⟨u, rfl, by rwa [List.append_nil]⟩
  | cons b l ih =>
    rw [List.length_cons] at hlen
    rw [List.append_cons] at hh ⊢
    have h4 : 4 ≤ p.length := h.2.1
    have hstep := assembled_receiveByte he h (by omega)
      fun hb => hh (p.length - 3) (by omega) (headerAt_append l hb)
    exact ih hstep (by rw [List.length_append, List.length_singleton]; omega) hh

/-- The 29 bytes before the last one of a frame end in the first footer byte. -/
theorem assembled_completesFrame {s u : State} {p : List Byte} (h : Assembled s (p ++ [0x55]) u)
    (hp : p.length = 28) : CompletesFrame u 0xCC := by
  obtain ⟨-, -, hlen, hw, -⟩ := h
  have hplen : (p ++ [0x55]).length = 29 := by rw [List.length_append, hp]; rfl
  have h55 : (p ++ [0x55])[(p ++ [0x55]).length - 4 + 3]? = some 0x55 := by
    rw [hplen, show 29 - 4 + 3 = p.length from hp.symm]
    exact List.getElem?_concat_length
  exact ⟨hlen.trans hplen, Option.some.inj ((hw 3 (by decide)).symm.trans h55), rfl⟩

/-- The record bytes stand in `BUF` behind the header. -/
theorem assembled_read {s u : State} {l l' : List Byte} {a : Nat}
    (h : Assembled s ([0xAA, 0xFF, 0x03, 0x00] ++ (l ++ l')) u) (ha : a < l.length) :
    u.buf.read (4 + a) = l.getD a 0 := by
  obtain ⟨-, -, -, -, hread⟩ := h
  have hget := hread (4 + a) (by simp; omega)
  rw [List.getElem?_append_right (by simp), List.getElem?_append_left (by simpa using ha)] at hget
  have hget' : l[a]? = some (u.buf.read (4 + a)) := by simpa using hget
  rw [List.getD_eq_getElem?_getD, hget']
  rfl

/-- Settles O25: the header starts the buffer (`feed_header`), the next 25 bytes fill it
(`feed_assembled`), the last one completes the frame. -/
theorem wholeFrameIsDecoded : Obligations.WholeFrameIsDecoded := by
  intro l s he hl hh
  have hsplit : [0xAA, 0xFF, 0x03, 0x00] ++ l ++ [0x55, 0xCC]
      = [0xAA, 0xFF, 0x03, 0x00] ++ ((l ++ [0x55]) ++ [(0xCC : Byte)]) := by simp
  rw [hsplit] at hh ⊢
  obtain ⟨u, hu, hau⟩ := feed_header he
  obtain ⟨v, hv, hav⟩ := feed_assembled (l := l ++ [0x55]) he hau (by simp [hl])
    fun k hk hc => hh k hk (by rw [← List.append_assoc]; exact headerAt_append [0xCC] hc)
  have hf : CompletesFrame v 0xCC :=
    assembled_completesFrame (p := [0xAA, 0xFF, 0x03, 0x00] ++ l)
      (by rwa [List.append_assoc]) (by simp [hl])
  have hsame : SameButAssembler s v := hav.1
  have hev : v.en = true := by rw [hsame]; exact he
  have hrun : feed ([0xAA, 0xFF, 0x03, 0x00] ++ ((l ++ [0x55]) ++ [0xCC])) s
      = .next { receiveByte 0xCC v with rsp := none } := by
    rw [feed_append _ _ s hu, feed_append _ _ u hv]
    rfl
  obtain ⟨t, ht, hframe, -, hdec, hzf, hcnt, hlast⟩ :=
    completingByteDecodesClassifiesStamps 0xCC v hev hf
  rw [execRxb_eq] at ht
  refine ⟨t, hrun.trans ht, ?_, ?_, ?_, fun i hi => ?_, fun i hi => ?_, hcnt, ?_⟩
  · rw [hframe, hsame]
  · rw [hframe]; exact hf.2.1
  · rw [hframe]; rfl
  · refine decodedFrom_congr (hdec i hi) fun k hk => ?_
    rw [Nat.add_assoc]
    exact assembled_read hav (by omega)
  · rw [hzf i hi, hsame]
    rfl
  · rw [hlast, hsame]

end Sys2Proof.Machine
end


section
/-! The step by its oldest input (00_scope.md, section 4; 30_encoding.md, section 7; 60_exceptions.md,
section 3; 70_reset_and_hazards.md, section 1), and runs of any length. -/

namespace Sys2Proof.Machine
open Sys2Proof.Safety

/-! ### Reserved opcodes -/

/-- The decoder rejects the opcodes from 11 on, and no other (30_encoding.md R118). -/
theorem decode_host_error_iff (w : Word72) :
    (∃ e, decode (.host w) = .error e) ↔ 0x11 ≤ (topByte w).toNat := by
  refine ⟨fun ⟨e, he⟩ => ?_, fun h => ⟨_, decode_host_reserved h⟩⟩
  by_contra hop
  obtain ⟨-, hok⟩ := unusedOperandBitsAreIgnored w w rfl (fun _ => ⟨rfl, rfl⟩) (fun _ => rfl)
    (fun _ => rfl) (fun _ => rfl)
  obtain ⟨i, hi⟩ := hok (by omega)
  rw [hi] at he
  cases he

/-- A reserved opcode is taken and answered `ILL`. -/
theorem step_reserved {s : State} {w : Word72} {n : Time} {rest : List Input}
    (h : s.inp = .host w n :: rest) (hop : 0x11 ≤ (topByte w).toNat) :
    step s = .next { s with inp := rest, now := n, rsp := some illWord } := by
  rw [step_word (p := .host w) h, runTask, decode_host_reserved hop]
  exact congrArg Host.Outcome.next (refuseIll_eq _)

/-- Settles O3: `decode_host_error_iff` and `step_reserved`. -/
theorem reservedOpcodeIsAnsweredIll : Obligations.ReservedOpcodeIsAnsweredIll :=
  ⟨decode_host_error_iff, fun _ _ _ _ => step_reserved⟩

/-! ### Runs -/

/-- A run goes on from the next state of its first step. -/
theorem core_run_succ {M : Host.Core} {k : Nat} {s t : M.State} (h : M.step s = .next t) :
    M.run (k + 1) s = M.run k t := by
  rw [Host.Core.run, h]

/-- Settles O12: each step has a next state, and the rest of the run goes on from there. -/
theorem noRunEverStops : Obligations.NoRunEverStops := by
  intro k
  induction k with
  | zero => exact fun s => ⟨s, rfl⟩
  | succ k ih =>
    intro s
    obtain ⟨t, ht⟩ : GoesOn (step s) := noOperationRaisesAnException.2 s
    obtain ⟨u, hu⟩ := ih t
    exact ⟨u, (core_run_succ (M := Sys2Proof.core) ht).trans hu⟩

/-! ### One step -/

/-- Settles O5: the decoder computes on each word. -/
theorem specWordsDecode : Obligations.SpecWordsDecode :=
  ⟨rfl, rfl, rfl, rfl, rfl⟩

/-- Settles O6: a step on a waiting word is `step_word`. -/
theorem stepRunsTheDecodedOperation : Obligations.StepRunsTheDecodedOperation := by
  intro s p t rest i h hdec
  rw [step_word h, runTask, hdec]

/-- Settles O7: `step_nil`. -/
theorem nothingHappensWithoutInput : Obligations.NothingHappensWithoutInput :=
  fun _ => step_nil

/-- A state whose oldest input is no coincident arrival steps as the state it was serialised from. -/
theorem step_eq_of_serialise {s u : State} (h : serialise s = u) (hu : serialise u = u) :
    step s = step u := by
  rw [step, step, h, hu]

/-- Settles O8: `serialise` puts the two operations in one of the two orders, and has nothing to do on
the result. -/
theorem coincidentArrivalIsOneOfTwoSequences :
    Obligations.CoincidentArrivalIsOneOfTwoSequences := by
  intro s b w t rest h
  rcases serialise_both h with hs | hs
  · exact .inl (step_eq_of_serialise hs (serialise_of_not_both (by simp)))
  · exact .inr (step_eq_of_serialise hs (serialise_of_not_both (by simp)))

/-- Settles O10: a step on the reset input is `resetBlock`, in closed form `resetBlock_eq`. -/
theorem resetInputGivesTheResetState : Obligations.ResetInputGivesTheResetState := by
  intro s v rest h
  rw [step_reset h, resetBlock_eq]

end Sys2Proof.Machine
end


section
/-! The sign correction of a decoded field (41_target_decoder.md, section 2) and the encoder that builds
frames (30_encoding.md, section 2), over the field as a number. -/

namespace Sys2Proof.Machine

/-- The correction in closed form. -/
theorem smdec_eq (u : Lane) :
    smdec u = if u.toNat < 32768 then (u.toNat : Int) else -((u.toNat : Int) - 32768) := by
  have hu := u.isLt
  simp only [smdec, s16, smBias, BitVec.toInt_eq_toNat_cond]
  split_ifs <;> omega

/-- Flipping bit 15 moves a field by half its range. -/
theorem signFlip_toNat (u : Lane) :
    (u ^^^ 0x8000).toNat = if u.toNat < 32768 then u.toNat + 32768 else u.toNat - 32768 := by
  have hxor : (u ^^^ 0x8000).toNat = u.toNat ^^^ 2 ^ 15 := BitVec.toNat_xor _ _
  have hlow : (u.toNat ^^^ 2 ^ 15) % 2 ^ 15 = u.toNat % 2 ^ 15 := by
    rw [Nat.xor_mod_two_pow, Nat.mod_self, Nat.xor_zero]
  have hhigh : (u.toNat ^^^ 2 ^ 15) / 2 ^ 15 = u.toNat / 2 ^ 15 ^^^ 1 := Nat.xor_div_two_pow
  have hu := u.isLt
  rw [hxor]
  by_cases hs : u.toNat < 32768
  · rw [show u.toNat / 2 ^ 15 = 0 by omega, Nat.zero_xor] at hhigh
    rw [if_pos hs]
    omega
  · rw [show u.toNat / 2 ^ 15 = 1 by omega, Nat.xor_self] at hhigh
    rw [if_neg hs]
    omega

theorem smdec_signFlip (u : Lane) : smdec (u ^^^ 0x8000) = -smdec u := by
  have hu := u.isLt
  rw [smdec_eq, smdec_eq, signFlip_toNat]
  by_cases hs : u.toNat < 32768
  · rw [if_pos hs, if_pos hs, if_neg (by omega)]
    omega
  · rw [if_neg hs, if_neg hs, if_pos (by omega)]
    omega

/-- The encoder in closed form: the magnitude, with bit 15 set for a negative number. -/
theorem smenc_toNat {v : Int} (h : -32767 ≤ v) (h' : v ≤ 32767) :
    ((smenc v).toNat : Int) = if 0 ≤ v then v else 32768 - v := by
  simp only [smenc, toLane, smBias]
  split_ifs <;> rw [BitVec.toNat_ofInt] <;> omega

/-- Settles O26: the closed form, its range, and the flip of bit 15. -/
theorem correctionIsSignMagnitude : Obligations.CorrectionIsSignMagnitude := by
  intro u
  obtain ⟨hlo, hhi⟩ := smdec_range u
  exact ⟨smdec_eq u, hlo, hhi, by decide, smdec_signFlip u⟩

/-- Settles O27: the two closed forms are inverse; only `8000`, whose magnitude is 0 with the sign set,
has no number of its own. -/
theorem correctionInvertsSensorEncoding : Obligations.CorrectionInvertsSensorEncoding := by
  refine ⟨fun v hlo hhi => ?_, fun u hu => ?_⟩
  · have henc := smenc_toNat hlo hhi
    rw [smdec_eq]
    split_ifs at henc ⊢ <;> omega
  · obtain ⟨hlo, hhi⟩ := smdec_range u
    have henc := smenc_toNat hlo hhi
    have hdec := smdec_eq u
    have hne : u.toNat ≠ 32768 := fun h => hu (BitVec.eq_of_toNat_eq h)
    refine BitVec.eq_of_toNat_eq ?_
    split_ifs at henc hdec <;> omega

end Sys2Proof.Machine
end

section
/-! The answers of the HOST port: the presence window (43_presence_debouncer.md, section 2), `RDTGT`
(45_status_reads.md), the refusals (60_exceptions.md, section 1), and what the operations leave in the
working registers (44_configuration.md, sections 2 and 5). -/

namespace Sys2Proof.Machine
open Sys2Proof.Safety

/-! ### Presence -/

/-- Settles O31: the answered word is PRES alone, which compares `now` with the end of the timeout. -/
theorem presenceHoldsForTheTimeout : Obligations.PresenceHoldsForTheTimeout := by
  intro d s
  have hpresent : presFlag s d = true → ({ st0 := presFlag s d } : Rsp).word = 0x010000000000000000 :=
    fun h => by rw [h]; rfl
  have habsent : ¬ presFlag s d = true → ({ st0 := presFlag s d } : Rsp).word = 0 :=
    fun h => by rw [Bool.eq_false_iff.mpr h]; exact emptyRsp_word
  rw [presFlag_iff] at hpresent habsent
  refine ⟨_, exec_qpres d s, fun hl => habsent fun hp => hp.1 hl, ?_⟩
  rintro T rfl hl
  exact ⟨fun _ hnow => hpresent ⟨hl, hnow⟩, fun hnow => habsent fun hp => by
    have hlt := hp.2
    omega⟩

/-! ### Saving and loading -/

/-- A timeout other than 0 survives `CFGSV` and a load. -/
theorem loadSlot_saveBytes_tmo {t : Byte} (ht : t ≠ 0) (x1 x2 y1 y2 : Int) :
    (loadSlot (saveBytes t x1 x2 y1 y2)).tmo = t :=
  (loadSlot_spec (saveBytes t x1 x2 y1 y2)).2.1 ht

/-- Loading the record of sound registers changes nothing. -/
theorem cfgload_saved {s : State} (h : ConfigSound s)
    (hslot : s.slot = saveBytes s.tmo (s16 s.x1) (s16 s.x2) (s16 s.y1) (s16 s.y2)) :
    cfgload s = s := by
  obtain ⟨hx1, hx2, hy1, hy2⟩ := loadSlot_saveBytes h s.tmo
  have htmo := loadSlot_saveBytes_tmo h.1 (s16 s.x1) (s16 s.x2) (s16 s.y1) (s16 s.y2)
  rw [cfgload, storeCfg, hslot, htmo, hx1, hx2, hy1, hy2]
  rfl

/-- Settles O42: after `CFGSV` the slot is the record of the registers, and loads to them. -/
theorem saveThenLoadKeepsTheRegisters : Obligations.SaveThenLoadKeepsTheRegisters := by
  intro s hs
  have hload := cfgload_saved (s := { s with
    slot := saveBytes s.tmo (s16 s.x1) (s16 s.x2) (s16 s.y1) (s16 s.y2), rsp := some 0 }) hs rfl
  refine ⟨_, _, exec_cfgsv s, exec_cfgld _, ?_⟩
  rw [hload]

/-- A read leaves the working registers alone. -/
theorem read_keeps_config {i : Instr} {s t : State} (hi : IsRead i) (h : exec i s = .next t) :
    t.tmo = s.tmo ∧ t.x1 = s.x1 ∧ t.x2 = s.x2 ∧ t.y1 = s.y1 ∧ t.y2 = s.y2 := by
  obtain ⟨r, hr⟩ := exec_read_answer hi s
  have hexec : exec i s = .next (answer r s) := hr s.rsp s.now (.inl rfl)
  rw [hexec] at h
  cases h
  exact ⟨rfl, rfl, rfl, rfl, rfl⟩

/-- Settles O55: `CFGLD` and the set operations end in a load; reads, `RXB`, `CFGSV` and `SLOTW` write no
working register. -/
theorem registersAreTheLoadedSlotWhenWritten :
    Obligations.RegistersAreTheLoadedSlotWhenWritten := by
  intro i s t h
  cases i with
  | rxb b =>
    cases h
    rw [receiveByte_reach]
    exact .inl ⟨rfl, rfl, rfl, rfl, rfl⟩
  | nop | rdstat | rdwin | rdlast | rdcfg | rdtmo =>
    exact .inl (read_keeps_config (.inl (by decide)) h)
  | qpres d => exact .inl (read_keeps_config (.inr (.inl ⟨d, rfl⟩)) h)
  | rdbuf d => exact .inl (read_keeps_config (.inr (.inr (.inl ⟨d, rfl⟩))) h)
  | rdtgt d => exact .inl (read_keeps_config (.inr (.inr (.inr (.inl ⟨d, rfl⟩)))) h)
  | slotr c => exact .inl (read_keeps_config (.inr (.inr (.inr (.inr ⟨c, rfl⟩)))) h)
  | cfgsv => cases h; exact .inl ⟨rfl, rfl, rfl, rfl, rfl⟩
  | slotw c d =>
    rcases Nat.lt_or_ge c.toNat 5 with hc | hc
    · rw [exec_slotw_write hc] at h; cases h; exact .inl ⟨rfl, rfl, rfl, rfl, rfl⟩
    · rw [exec_slotw_refused hc] at h; cases h; exact .inl ⟨rfl, rfl, rfl, rfl, rfl⟩
  | cfgld => cases h; exact .inr ⟨.inl rfl, cfgload_loaded s⟩
  | zdef => cases h; exact .inr ⟨.inr (.inl rfl), persist_loaded _ s⟩
  | sett d => cases h; exact .inr ⟨.inr (.inr (.inl ⟨d, rfl⟩)), persist_loaded _ s⟩
  | setd c d => cases h; exact .inr ⟨.inr (.inr (.inr (.inl ⟨c, d, rfl⟩))), persist_loaded _ s⟩
  | setz a b c d =>
    cases h
    exact .inr ⟨.inr (.inr (.inr (.inr ⟨a, b, c, d, rfl⟩))), persist_loaded _ s⟩

/-! ### `RDTGT` -/

theorem decode_host_rdtgt {w : Word72} (h : (topByte w).toNat = 0x05) :
    decode (.host w) = .ok (.rdtgt (laneD w)) := by
  simp only [decode, decodeHost, h]

/-- PRESENT as bit 1 of the status byte. -/
theorem presentFlag_toNat (t : Target) :
    2 * (presentFlag t).toNat = if t.dist.toNat = 0 then 0 else 2 := by
  have hd : t.dist = 0 ↔ t.dist.toNat = 0 := by rw [← BitVec.toNat_inj]; rfl
  by_cases h : t.dist.toNat = 0
  · rw [if_pos h, presentFlag, hd.mpr h]
    rfl
  · rw [if_neg h, presentFlag, decide_eq_true (mt hd.mp h)]
    rfl

/-- The response of `RDTGT` as numbers (45_status_reads.md R222). -/
theorem targetRsp_hasFields (t : Target) :
    HasFields (targetRsp t).word (t.zf.toNat + (if t.dist.toNat = 0 then 0 else 2))
      t.x.toNat t.y.toNat t.spd.toNat t.dist.toNat := by
  have hst : 128 * (targetRsp t).ill.toNat + 2 * (presentFlag t).toNat + t.zf.toNat
      = t.zf.toNat + (if t.dist.toNat = 0 then 0 else 2) := by
    rw [show (targetRsp t).ill.toNat = 0 from rfl, presentFlag_toNat]
    omega
  rw [← hst]
  exact rsp_hasFields (targetRsp t)

/-- A sound target reads with `ZF` only where it is PRESENT, and with zero coordinates where it is not. -/
theorem targetRsp_of_sound {t : Target} (h : TargetSound t) :
    (topByte (targetRsp t).word).toNat ≠ 1
    ∧ ((topByte (targetRsp t).word).toNat < 2 → laneA (targetRsp t).word = 0
        ∧ laneB (targetRsp t).word = 0 ∧ laneD (targetRsp t).word = 0) := by
  obtain ⟨-, -, -, -, hzero, -, hzf⟩ := h
  obtain ⟨htop, -⟩ := targetRsp_hasFields t
  rw [htop, laneA_rsp, laneB_rsp, laneD_rsp]
  by_cases hd : t.dist.toNat = 0
  · have hflag : t.zf = false := Bool.eq_false_iff.mpr fun hc => (hzf hc).ne' hd
    obtain ⟨hx, hy⟩ := hzero.mp hd
    rw [if_pos hd, hflag]
    exact ⟨by decide, fun _ => ⟨BitVec.eq_of_toInt_eq hx, BitVec.eq_of_toInt_eq hy,
      BitVec.eq_of_toNat_eq hd⟩⟩
  · rw [if_neg hd]
    omega

/-- Settles O45: the record of the slot as `targetRsp`, or a refusal. -/
theorem rdtgtAnswersOneSlotOrRefuses : Obligations.RdtgtAnswersOneSlotOrRefuses := by
  refine ⟨fun _ hw => decode_host_rdtgt (congrArg BitVec.toNat hw), fun d s => ⟨fun hd => ?_,
    fun hd => ?_⟩⟩
  · exact ⟨_, exec_rdtgt_read hd, targetRsp_hasFields _,
      fun ⟨htgt, _⟩ => targetRsp_of_sound (htgt d.toNat hd)⟩
  · rw [exec_rdtgt_refused hd, refuseIll_eq]

/-! ### Refusals -/

/-- The one refusal: the index operand names no element (60_exceptions.md R242). -/
def Refused (s : State) : Instr → Prop
  | .rdtgt d => 3 ≤ d.toNat
  | .rdbuf d => s.len.val ≤ d.toNat
  | .slotw c _ => 5 ≤ c.toNat
  | .slotr c => 5 ≤ c.toNat
  | _ => False

theorem refused_iff (s : State) (i : Instr) :
    Refused s i ↔ (∃ d, i = .rdtgt d ∧ 3 ≤ d.toNat) ∨ (∃ d, i = .rdbuf d ∧ s.len.val ≤ d.toNat)
      ∨ (∃ c d, i = .slotw c d ∧ 5 ≤ c.toNat) ∨ (∃ c, i = .slotr c ∧ 5 ≤ c.toNat) := by
  cases i <;> simp [Refused]

/-- What a HOST operation does to the response port: it refuses and changes nothing else, or it answers
without `ILL`. -/
def AnswersOrRefuses (i : Instr) (s : State) : Prop :=
  (Refused s i ∧ exec i s = .next (refuseIll s))
  ∨ (¬ Refused s i ∧ ∃ (t : State) (r : Rsp),
      exec i s = .next t ∧ t.rsp = some r.word ∧ r.ill = false)

theorem answersOrRefuses {i : Instr} (hi : ∀ b, i ≠ .rxb b) (s : State) : AnswersOrRefuses i s := by
  cases i with
  | rxb b => exact absurd rfl (hi b)
  | nop | qpres | rdstat | rdwin | rdlast | rdcfg | rdtmo
  | sett | setd | setz | zdef | cfgld | cfgsv =>
    exact .inr ⟨id, _, _, rfl, rfl, rfl⟩
  | rdbuf d =>
    rcases Nat.lt_or_ge d.toNat s.len.val with h | h
    · exact .inr ⟨Nat.not_le.mpr h, _, _, exec_rdbuf_read h, rfl, rfl⟩
    · exact .inl ⟨h, exec_rdbuf_refused h⟩
  | rdtgt d =>
    rcases Nat.lt_or_ge d.toNat 3 with h | h
    · exact .inr ⟨Nat.not_le.mpr h, _, _, exec_rdtgt_read h, rfl, rfl⟩
    · exact .inl ⟨h, exec_rdtgt_refused h⟩
  | slotw c d =>
    rcases Nat.lt_or_ge c.toNat 5 with h | h
    · exact .inr ⟨Nat.not_le.mpr h, _, _, exec_slotw_write h, rfl, rfl⟩
    · exact .inl ⟨h, exec_slotw_refused h⟩
  | slotr c =>
    rcases Nat.lt_or_ge c.toNat 5 with h | h
    · exact .inr ⟨Nat.not_le.mpr h, _, _, exec_slotr_read h, rfl, rfl⟩
    · exact .inl ⟨h, exec_slotr_refused h⟩

/-- A response without `ILL` has `st[7:2] = 0`. -/
theorem topByte_rsp_lt {r : Rsp} (h : r.ill = false) : (topByte r.word).toNat < 4 := by
  have ho := Bool.toNat_le r.st1
  have hz := Bool.toNat_le r.st0
  rw [topByte_rsp, statusByte_toNat, h, Bool.toNat_false]
  omega

/-- Settles O52: an operation refuses or answers by `answersOrRefuses`; a reserved opcode is answered by
`step_reserved`. -/
theorem illIsAnsweredInTheListedCasesOnly : Obligations.IllIsAnsweredInTheListedCasesOnly := by
  refine ⟨fun i s hi => ?_, fun _ _ _ _ => step_reserved⟩
  rw [← refused_iff]
  rcases answersOrRefuses hi s with ⟨href, h⟩ | ⟨hacc, t, r, h, hrsp, hill⟩
  · rw [refuseIll_eq] at h
    exact ⟨_, illWord, h, rfl, iff_of_true (by decide) href, fun _ => ⟨rfl, rfl⟩, by decide⟩
  · have hlt := topByte_rsp_lt hill
    exact ⟨t, r.word, h, hrsp, iff_of_false (by omega) hacc, fun hge => absurd hge (by omega),
      by omega⟩

end Sys2Proof.Machine
end
